-- ==== Sys2Proof/Word.lean ====
section
/-! DEFINITION. The word types of the 2640: bytes, rotational times, station numbers and tags. -/

namespace Sys2Proof

/-- One byte of the plan port or of the Share Link. -/
abbrev Byte := BitVec 8

/-- A rotational time, revolution × 4096 + angle, 20 bits that repeat every 256 revolutions (R5). -/
abbrev Time := BitVec 20

/-- A station number 0..7 (00_scope, straps STN0..STN2). -/
abbrev Station := BitVec 3

/-- The channel's name for a plan, 0..255 (R36). -/
abbrev Tag := BitVec 8

/-- The kind of a plan or of a claim (Table 3-1, Table 2-1). -/
inductive PlanKind where
  | write
  | cal
  deriving DecidableEq, Repr

end Sys2Proof
end

