-- ==== Sys2Proof/Config.lean ====
section
/-! DEFINITION. Constants of the part: the limits the manual fixes, the identity, and the free values
that the manual leaves open (opaque constants: nothing can be proved about their values). -/

namespace Sys2Proof.Config

/-- Minimum lead of a window after its reference time (Table 1-3). -/
def minLead : Nat := 512

/-- Horizon: the latest window start after its reference time (Table 1-3). -/
def horizon : Nat := 8192

/-- Maximum span of a window (Table 1-3). -/
def maxSpan : Nat := 3584

/-- Capacity of the Share Table (R15). -/
def tableCapacity : Nat := 32

/-- Capacity of the Plan Queue (R38). -/
def queueCapacity : Nat := 8

/-- The device code, 0x2640 (R172). -/
def deviceCode : Nat := 0x2640

/-- The revision, 0x01 (R172, Table 8-2). -/
def revision : Byte := 0x01#8

/-- The factory unit code, a 32-bit serial number that differs from unit to unit (00_scope): fixed for
one part, left open by the manual (log 13). -/
opaque unitCode : BitVec 32

/-- The head number that accompanies the n-th off message on the laser drive link: R64 gives it no value
(log 11). -/
opaque offHead : Nat → BitVec 4

/-- At the n-th free choice: whether a pending swap is resolved before the HEAD_SUSPECT endings that
follow the same finishing; R108 allows both orders (log 12). -/
opaque swapFirst : Nat → Bool

end Sys2Proof.Config
end

