-- ==== Sys2Proof/Syntax.lean ====
section
/-! DEFINITION. The commands of the 2640: one constructor per row of spec/opcode_table.json. -/

namespace Sys2Proof

/-- One claim entry of an ANNOUNCE frame as its bytes give it (Table 11-3). -/
structure AnnounceEntry where
  number      : Byte
  kind        : Byte
  windowStart : Time
  windowEnd   : Time
  level       : Byte
  deriving DecidableEq, Repr

/-- A command the station takes. Plan port requests carry their raw payload bytes; a link frame carries
its sender and its fields; `pulse` says whether an INDEX pulse was taken between the start of the
frame's reception and its end (R147). -/
inductive Instr where
  -- plan port requests (Table 10-1)
  | configure (payload : List Byte)
  | start (payload : List Byte)
  | load (payload : List Byte)
  /-- `more` is the trailer 0x1F, "more follows"; otherwise the trailer is "last" (R102, R163). -/
  | data (payload : List Byte) (more : Bool)
  | swap (payload : List Byte)
  | setHead (payload : List Byte)
  | readHead (payload : List Byte)
  | calibrate (payload : List Byte)
  | post (payload : List Byte)
  | cancel (payload : List Byte)
  | query (payload : List Byte)
  | collect (payload : List Byte)
  | status (payload : List Byte)
  | identify (payload : List Byte)
  | withdraw (payload : List Byte)
  | restart (payload : List Byte)
  /-- A request whose envelope is not sound (R163). -/
  | planPortFrameError
  /-- A sound request whose KIND is not in Table 10-9 (R164). -/
  | unknownKind (kind : Byte) (payload : List Byte)
  -- reset line and clock
  /-- The rise of RSTn, with the levels of STN2..STN0 (R174). -/
  | powerOn (straps : Station)
  /-- A rising edge of INDEX, with the interval of the reference clock since the edge before (R2). -/
  | indexPulse (interval : Nat)
  | clockHold
  | spindleLoss
  /-- The INDEX pulse at which peer `peer` is marked LOST (R145). -/
  | peerLost (peer : Station) (interval : Nat)
  /-- The second INDEX pulse of LISTEN (R148). -/
  | listenEnd (interval : Nat)
  /-- The INDEX pulse at which a requester abandons its resynchronisation (R157). -/
  | resyncTimeout (interval : Nat)
  /-- The INDEX pulse that ends QUIET (R159). -/
  | quietTimeout (interval : Nat)
  -- gates and rail
  | wgateRise
  | wgateFall
  | sgateRise
  | sgateFall
  | railAlertRise
  -- window edges, deadlines and steps
  /-- The opening of the window of the WRITE record `tag`, with the level of RAIL_ALERT (R68). -/
  | writeWindowOpens (tag : Tag) (railAlert : Bool)
  /-- The opening of the window of the CAL record `tag`, with the level of RAIL_ALERT (R79). -/
  | calWindowOpens (tag : Tag) (railAlert : Bool)
  /-- The end of a profile step, with the levels of MONLO and MONHI (R67, R90). -/
  | profileStepEnd (monlo monhi : Bool)
  | windowEndReached
  | writeStartDeadline
  | writeDeadline
  | transmitDeadline (tag : Tag)
  /-- The end of a calibration step, with the levels of MONLO and MONHI (R80). -/
  | calibrationStepEnd (monlo monhi : Bool)
  | swapResolution
  -- the station's own frames on the Share Link
  /-- The station's turn on the line: the line has been idle for `idle` bit times (R132). -/
  | frameStart (idle : Nat)
  | transmissionCompletes
  | collision
  -- the line and the frames of other units
  /-- A frame error; `foreignLow` says whether a low level that is not the station's own was among the
  bits of the failed frame (R132, R137). -/
  | linkFrameError (foreignLow : Bool)
  | join (sender : Station) (stamp : Time) (unit : BitVec 32) (pulse : Bool)
  | beacon (sender : Station) (stamp : Time) (digest : BitVec 16) (claims sync : Byte) (pulse : Bool)
  | claim (sender : Station) (stamp : Time) (number kind : Byte) (windowStart windowEnd : Time)
      (level : Byte) (pulse : Bool)
  | release (sender : Station) (stamp : Time) (number : Byte) (releaseStamp : Time) (pulse : Bool)
  | syncRequest (sender : Station)
  | announce (sender : Station) (final : Byte) (entries : List AnnounceEntry)
  | syncDone (sender : Station) (stamp : Time) (digest : BitVec 16) (pulse : Bool)
  | rstnFalls
  | idleForMoreThan20BitTimes
  deriving DecidableEq, Repr

end Sys2Proof
end

