-- ==== Sys2Proof/WellFormed.lean ====
section
/-! DEFINITION. Which commands are well formed: the bounds that the envelopes of the plan port and of the
Share Link put on a command before any rule of its own reads it. -/

namespace Sys2Proof

/-- The request kind codes of Table 10-9. -/
def requestKinds : List Byte :=
  [0x10, 0x11, 0x20, 0x21, 0x22, 0x30, 0x31, 0x32, 0x40, 0x41, 0x42, 0x43, 0x50, 0x51, 0x52, 0x5F]

/-- A plan port payload has at most 64 bytes (R163: LEN 1..65 counts KIND and the payload). -/
def payloadFits (payload : List Byte) : Bool := payload.length ≤ 64

/-- A command as its envelope admits it: plan port payloads of at most 64 bytes; UNKNOWN_KIND with a KIND
outside Table 10-9; an ANNOUNCE with at most 3 entries (R131); an INDEX interval that is not 0 (two
rising edges are never at one moment, R2). -/
def Instr.wellFormed : Instr → Bool
  | .configure p => payloadFits p
  | .start p => payloadFits p
  | .load p => payloadFits p
  | .data p _ => payloadFits p
  | .swap p => payloadFits p
  | .setHead p => payloadFits p
  | .readHead p => payloadFits p
  | .calibrate p => payloadFits p
  | .post p => payloadFits p
  | .cancel p => payloadFits p
  | .query p => payloadFits p
  | .collect p => payloadFits p
  | .status p => payloadFits p
  | .identify p => payloadFits p
  | .withdraw p => payloadFits p
  | .restart p => payloadFits p
  | .planPortFrameError => true
  | .unknownKind k p => payloadFits p && !requestKinds.contains k
  | .powerOn _ => true
  | .indexPulse i => 0 < i
  | .clockHold => true
  | .spindleLoss => true
  | .peerLost _ i => 0 < i
  | .listenEnd i => 0 < i
  | .resyncTimeout i => 0 < i
  | .quietTimeout i => 0 < i
  | .wgateRise => true
  | .wgateFall => true
  | .sgateRise => true
  | .sgateFall => true
  | .railAlertRise => true
  | .writeWindowOpens _ _ => true
  | .calWindowOpens _ _ => true
  | .profileStepEnd _ _ => true
  | .windowEndReached => true
  | .writeStartDeadline => true
  | .writeDeadline => true
  | .transmitDeadline _ => true
  | .calibrationStepEnd _ _ => true
  | .swapResolution => true
  | .frameStart _ => true
  | .transmissionCompletes => true
  | .collision => true
  | .linkFrameError _ => true
  | .join _ _ _ _ => true
  | .beacon _ _ _ _ _ _ => true
  | .claim _ _ _ _ _ _ _ _ => true
  | .release _ _ _ _ _ => true
  | .syncRequest _ => true
  | .announce _ _ es => es.length ≤ 3
  | .syncDone _ _ _ _ => true
  | .rstnFalls => true
  | .idleForMoreThan20BitTimes => true

end Sys2Proof
end

