-- ==== Sys2Proof/Decode.lean ====
section
/-! DEFINITION. The command that a table word spells. No row of spec/opcode_table.json gives bits, so no
word spells a command; how bytes of the plan port and of the Share Link spell commands is in
Machine/Port.lean and Machine/Line.lean. -/

namespace Sys2Proof

/-- The command spelt by the word `w` of `nbits` bits: none, for no row of the table gives bits. -/
def decodeTableWord (_nbits _w : Nat) : Option Instr := none

end Sys2Proof
end

