-- ==== Sys2Proof/Machine/State.lean ====
section
/-! DEFINITION. The state of the 2640 as plain data: every block's state (Table 0-1), the lines, the held
reply and the queue of waiting commands; the machine right after reset. -/

namespace Sys2Proof.Machine

/-! ### Rotational Clock (chapter 1) -/

/-- Table 1-1. `pulseSeen`: an INDEX pulse has been taken since power-on and since the latest spindle loss,
so that the next one measures a period (R2). -/
structure Clock where
  revolution : BitVec 8
  angle      : BitVec 12
  period     : Option Nat
  hold       : Bool
  valid      : Bool
  pulseSeen  : Bool
  deriving DecidableEq, Repr

/-- The lines read by the part, as they stand (Table 10-10). -/
structure Pins where
  rstn      : Bool
  wgate     : Bool
  sgate     : Bool
  railAlert : Bool
  monlo     : Bool
  monhi     : Bool
  deriving DecidableEq, Repr

/-! ### Share Table (chapter 2) -/

/-- Where an entry came from (Table 2-1). -/
inductive Origin where
  | admitted
  | announced
  deriving DecidableEq, Repr

/-- A claim entry (Table 2-1). -/
structure Entry where
  station     : Station
  number      : Nat
  windowStart : Time
  windowEnd   : Time
  level       : Nat
  kind        : PlanKind
  origin      : Origin
  deriving DecidableEq, Repr

/-! ### Plan Queue (chapter 3) -/

/-- What a PAUSED record remembers (Table 3-6). -/
inductive PauseFrom where
  | preheat
  | ready
  | writing
  deriving DecidableEq, Repr

/-- Plan record states (Table 3-6). -/
inductive RecordState where
  | queued
  | claiming
  | granted
  | preheat
  | ready
  | writing
  | paused (memory : PauseFrom)
  | tail
  | calibrating
  | finished
  deriving DecidableEq, Repr

/-- Outcomes of a plan (Table 3-8). -/
inductive PlanOutcome where
  | done
  | calFail
  | denied
  | late
  | missed
  | coldWrite
  | overrun
  | servoClash
  | rail
  | interrupted
  | cancelled
  | fenced
  | headSuspect
  | spindle
  deriving DecidableEq, Repr

/-- The modes of CANCEL (R52). -/
inductive CancelMode where
  | immediate
  | segmentEnd
  deriving DecidableEq, Repr

/-- Burst classes (Table 5-4). -/
inductive BurstClass where
  | clean
  | drift
  | marginal
  | loss
  deriving DecidableEq, Repr

/-- The monitor report of a finished burst (R93). -/
structure Report where
  q0       : Nat
  q1       : Nat
  q2       : Nat
  q3       : Nat
  low      : Nat
  high     : Nat
  maximum  : Nat
  maxIndex : Nat
  cls      : BurstClass
  deriving DecidableEq, Repr

/-- Failure causes of a calibration (Table 7-6). -/
inductive CalCause where
  | none
  | monitor
  | writeLimit
  deriving DecidableEq, Repr

/-- The calibration result (Table 7-5). -/
structure CalResult where
  threshold : Nat
  write     : Nat
  cause     : CalCause
  monlo     : Nat
  deriving DecidableEq, Repr

/-- A plan record (Table 3-1) with its optional parts (Table 3-2). -/
structure Record where
  tag            : Tag
  kind           : PlanKind
  head           : Nat
  zone           : Nat
  planStart      : Time
  length         : Nat
  lead           : Nat
  tailAllowance  : Nat
  level          : Nat
  windowStart    : Time
  windowEnd      : Time
  claim          : Nat
  sequence       : BitVec 16
  state          : RecordState
  cancel         : Option CancelMode
  releasePending : Bool
  outcome        : Option PlanOutcome
  finishStamp    : Option Time
  hint           : Option Time
  report         : Option Report
  calResult      : Option CalResult
  faultStamp     : Option Time
  deriving DecidableEq, Repr

/-- The Plan Queue: the records in acceptance order, the tags of the FINISHED records in finish order, and
the acceptance counter (R38). -/
structure PlanQueue where
  records  : List Record
  finished : List Tag
  accepted : BitVec 16
  deriving DecidableEq, Repr

/-! ### Profile Store (chapter 6) -/

/-- The sample store of a bank: (index, byte) pairs, indexes strictly rising, no byte equal to what an
unlisted sample reads as. -/
abbrev Memory := List Host.Cell

/-- A segment descriptor (Table 6-1). -/
structure Descriptor where
  first : Nat
  count : Nat
  deriving DecidableEq, Repr

/-- A profile record (Table 6-2). -/
structure Profile where
  preheat       : List Nat
  write         : Nat
  tail          : List Nat
  hold          : Nat
  lead          : Nat
  tailAllowance : Nat
  level         : Nat
  deriving DecidableEq, Repr

/-- Bank states (Table 6-3). -/
inductive BankState where
  | empty
  | loading
  | ready
  | swapPending
  deriving DecidableEq, Repr

/-- One bank (Table 6-1): 2048 samples, 64 descriptors, a profile or none for each of 16 zones. -/
structure Bank where
  state       : BankState
  samples     : Memory
  descriptors : List Descriptor
  profiles    : List (Option Profile)
  deriving DecidableEq, Repr

/-- The names of the banks. -/
inductive BankId where
  | a
  | b
  deriving DecidableEq, Repr

/-- The last swap outcome (R112). -/
inductive SwapOutcome where
  | none
  | done
  | refused (tag : Tag)
  | cancelled
  deriving DecidableEq, Repr

/-- The load record (Table 6-6), with the bytes of the item in progress and the profile records read so
far (zone and profile), which become the bank's profiles at a verdict of OK (R105). -/
structure Load where
  n              : Nat
  d              : Nat
  p              : Nat
  received       : Nat
  badDescriptor  : Option Nat
  badReference   : Option Nat
  badZone        : Option Nat
  badLimits      : Option Nat
  zonesSeen      : List Nat
  item           : List Byte
  profiles       : List (Nat × Profile)
  deriving DecidableEq, Repr

/-- The Profile Store (R98, R112). -/
structure ProfileStore where
  bankA    : Bank
  bankB    : Bank
  active   : BankId
  lastSwap : SwapOutcome
  load     : Option Load
  deriving DecidableEq, Repr

/-! ### Burst Sequencer (chapter 4) and Power Monitor (chapter 5) -/

/-- The laser output (R64): off, or a head and a code 0..1023. -/
inductive Laser where
  | off
  | on (head code : Nat)
  deriving DecidableEq, Repr

/-- The captured head values (R65). -/
structure HeadValues where
  threshold : Nat
  write     : Nat
  trim      : Int
  deriving DecidableEq, Repr

/-- The phases of profile play (R67). -/
inductive Phase where
  | preheat
  | write
  | tail
  deriving DecidableEq, Repr

/-- The position of play: phase, segment index within the phase, sample index within the segment; no
sample index while the position stands before the segment's first sample (R68). -/
structure Position where
  phase   : Phase
  segment : Nat
  sample  : Option Nat
  deriving DecidableEq, Repr

/-- The Burst Sequencer (Table 4-1). `overrun` is the fault stamp of a tail that was entered as an overrun
(R76), kept until the record finishes. -/
structure Sequencer where
  current   : Option Tag
  profile   : Option Profile
  captured  : Option HeadValues
  position  : Option Position
  firstStep : Bool
  laser     : Laser
  wfault    : Bool
  overrun   : Option Time
  deriving DecidableEq, Repr

/-- Messages of the laser drive link (R64, R89, R120). -/
inductive DriveMessage where
  | drive (head : BitVec 4) (enable : Bool) (code : Nat)
  | references (low high : Nat)
  deriving DecidableEq, Repr

/-- The laser drive link: the messages sent, in order, and the reference pair last sent. -/
structure DriveLink where
  sent       : List DriveMessage
  references : Option (Nat × Nat)
  deriving DecidableEq, Repr

/-- The open burst of the Power Monitor (Table 5-1). -/
structure Burst where
  tag       : Tag
  head      : Nat
  boundary1 : Time
  boundary2 : Time
  boundary3 : Time
  sampling  : Bool
  target    : Nat
  q0        : Nat
  q1        : Nat
  q2        : Nat
  q3        : Nat
  low       : Nat
  high      : Nat
  deriving DecidableEq, Repr

/-! ### Head Table (chapter 7) -/

/-- Head states (Table 7-2). -/
inductive HeadState where
  | uncal
  | valid
  | suspect
  deriving DecidableEq, Repr

/-- Where a head's codes came from (Table 7-1). -/
inductive HeadSource where
  | set
  | cal
  deriving DecidableEq, Repr

/-- A head record (Table 7-1). -/
structure HeadRecord where
  state     : HeadState
  threshold : Nat
  write     : Nat
  trim      : Int
  source    : HeadSource
  stamp     : Option Time
  deriving DecidableEq, Repr

/-- The calibration search (Table 7-4). -/
structure Search where
  tag       : Tag
  head      : Nat
  step      : Nat
  threshold : Nat
  offset    : Nat
  monlo     : Nat
  deriving DecidableEq, Repr

/-! ### Link Controller (chapter 8) and Peer Block (chapter 9) -/

/-- The sync state (Table 9-1). -/
inductive SyncState where
  | none
  | inSync
  | desync
  | resyncing
  deriving DecidableEq, Repr

/-- The content of a link frame of the station's own, as fixed at its start (R133, Table 11-3). -/
inductive LinkFrame where
  | join (stamp : Time) (unit : BitVec 32)
  | beacon (stamp : Time) (digest : BitVec 16) (claims : Nat) (sync : SyncState)
  | claim (stamp : Time) (number : Nat) (kind : PlanKind) (windowStart windowEnd : Time) (level : Nat)
  | release (stamp : Time) (number : Nat) (releaseStamp : Time)
  | syncRequest
  | announce (final : Bool) (entries : List Entry)
  | syncDone (stamp : Time) (digest : BitVec 16)
  deriving DecidableEq, Repr

/-- An entry of the transmit queue (R139). An ANNOUNCE batch holds the frames it has still to send once
its first frame has started, and its repeat mark (R141). -/
inductive TxEntry where
  | claim (number : Nat) (kind : PlanKind) (windowStart windowEnd : Time) (level : Nat)
  | release (number : Nat) (releaseStamp : Time)
  | beacon
  | join
  | syncRequest
  | syncDone
  | announce (frames : Option (List (List Entry))) (again : Bool)
  deriving DecidableEq, Repr

/-- What names an entry of the transmit queue, for the memory of which entry collided last (R135). -/
inductive TxKey where
  | claim (number : Nat)
  | release (number : Nat)
  | beacon
  | join
  | syncRequest
  | syncDone
  | announce
  deriving DecidableEq, Repr

/-- The frame in progress; `discard` once its loopback is to be discarded (R142). -/
structure OnLine where
  frame   : LinkFrame
  discard : Bool
  deriving DecidableEq, Repr

/-- The receiver (Table 8-1); `waitingIdle` on entry to LISTEN from SETUP, until more than 20 idle bit
times have been seen (R128). -/
inductive Receiver where
  | idle
  | waitingIdle
  | receiving
  | discarding
  deriving DecidableEq, Repr

/-- A byte as the receiver takes it: its value, whether its stop bit sampled low, and the idle bit times
before it (R128, R136). -/
structure RxByte where
  value : Byte
  fault : Bool
  gap   : Nat
  deriving DecidableEq, Repr

/-- The Link Controller (Table 8-1). While `onLine` holds a frame whose loopback is not to be discarded,
that frame's entry is the head of `queue`. `bit`: the bit of the frame in progress that is being sent.
`assembly`: the bytes of the frame being assembled from the line. `byteBits`: the idle bit times before the
byte in progress and its data bits sampled so far. `lineHigh`: the level of the line as last sampled. -/
structure Link where
  queue      : List TxEntry
  onLine     : Option OnLine
  bit        : Nat
  receiver   : Receiver
  assembly   : List RxByte
  byteBits   : Option (Nat × List Bool)
  lineHigh   : Bool
  collisions : Nat
  collided   : Option TxKey
  postSend   : Bool
  idleCount  : Nat
  deriving DecidableEq, Repr

/-- Peer Table entry states (Table 9-2). -/
inductive PeerState where
  | absent
  | joining
  | active
  | lost
  | self
  deriving DecidableEq, Repr

/-- A Peer Table entry (Table 9-2). -/
structure PeerEntry where
  state     : PeerState
  lastHeard : Nat
  unit      : Option (BitVec 32)
  digest    : Option (BitVec 16)
  announced : Bool
  deriving DecidableEq, Repr

/-- The Peer Block (Table 9-1). `joinSent`: a JOIN of this LISTEN or JOINING has completed on the line
(R147, log 20). -/
structure PeerBlock where
  table           : List PeerEntry
  sync            : SyncState
  requester       : Bool
  awaited         : List Station
  requesterPulses : Nat
  reRequest       : Bool
  quiet           : Option Station
  quietPulses     : Nat
  listenPulses    : Nat
  adopted         : Bool
  joinSent        : Bool
  deriving DecidableEq, Repr

/-! ### Station Control (chapter 10) -/

/-- Station states (Table 10-3). -/
inductive StationState where
  | setup
  | listen
  | joining
  | active
  | halted
  deriving DecidableEq, Repr

/-- Sides of a fence (Table 10-5). -/
inductive FenceSide where
  | none
  | low
  | high
  deriving DecidableEq, Repr

/-- A fence (section 10.4). -/
structure Fence where
  side   : FenceSide
  extent : Nat
  deriving DecidableEq, Repr

/-- The configuration (Table 10-5). -/
structure Configuration where
  bTotal             : Nat
  headCount          : Nat
  linkRate           : Nat
  lMax               : Nat
  gMin               : Nat
  lateTol            : Nat
  stepDuration       : Nat
  monitorWindow      : Nat
  deviationThreshold : Nat
  calLength          : Nat
  calLevel           : Nat
  thresholdReference : Nat
  writeReference     : Nat
  fence              : Fence
  deriving DecidableEq, Repr

/-- The restrictions (R168): which capabilities are withdrawn, and the fence held. -/
structure Restrictions where
  calibrate : Bool
  load      : Bool
  trim      : Bool
  fence     : Fence
  deriving DecidableEq, Repr

/-- Fault record causes (Table 10-6). -/
inductive FaultCause where
  | strayGate
  | clashSeen
  | spindleLost
  | linkFault
  | idClash
  deriving DecidableEq, Repr

/-- The fault record (R170). -/
structure FaultRecord where
  cause   : Option FaultCause
  stamp   : Time
  further : Bool
  deriving DecidableEq, Repr

/-- Result codes (Table 10-8). -/
inductive Result where
  | ok
  | frameError
  | unknownKind
  | badLength
  | badArgument
  | wrongState
  | busy
  | queueFull
  | tagInUse
  | noSuchTag
  | headNotReady
  | fenced
  | noProfile
  | tooSoon
  | tooFar
  | tooLong
  | ownOverlap
  | headGap
  | withdrawn
  | tooLate
  | empty
  | received
  | loadFailed
  deriving DecidableEq, Repr

/-- A reply of the plan port (R164). -/
structure Reply where
  kind    : Byte
  result  : Result
  payload : List Byte
  deriving DecidableEq, Repr

/-! ### The whole machine -/

/-- The state of one station. -/
structure State where
  /-- The commands that wait, first in, first out (the model's own). -/
  pending      : List Instr
  /-- The index of the next free value (the model's own, log 12). -/
  free         : Nat
  pins         : Pins
  clock        : Clock
  table        : List Entry
  plans        : PlanQueue
  seq          : Sequencer
  drive        : DriveLink
  burst        : Option Burst
  store        : ProfileStore
  heads        : List HeadRecord
  search       : Option Search
  link         : Link
  peers        : PeerBlock
  station      : StationState
  number       : Station
  config       : Configuration
  restrictions : Restrictions
  fault        : FaultRecord
  reply        : Option Reply
  deriving DecidableEq, Repr

/-- Why the machine stops with a fault: the manual gives no such reason (every error of the part is a
state), so there is none. -/
inductive Fault where
  deriving DecidableEq, Repr

/-- Why a command has no meaning. -/
inductive Refusal where
  /-- Raised by an arm of `exec` that is still refused by name (safe); no arm is. -/
  | notModelled (mnemonic : String)
  deriving DecidableEq, Repr

/-! ### Power-on values -/

/-- The clock at power-on (R1). -/
def Clock.powerOn : Clock :=
  { revolution := 0, angle := 0, period := none, hold := false, valid := false, pulseSeen := false }

/-- An erased bank (R97). -/
def Bank.erased : Bank :=
  { state := .empty, samples := [], descriptors := List.replicate 64 { first := 0, count := 0 },
    profiles := List.replicate 16 none }

/-- The Profile Store at power-on (R99). -/
def ProfileStore.powerOn : ProfileStore :=
  { bankA := Bank.erased, bankB := Bank.erased, active := .a, lastSwap := .none, load := none }

/-- A head record at power-on (R115). -/
def HeadRecord.powerOn : HeadRecord :=
  { state := .uncal, threshold := 0, write := 0, trim := 0, source := .set, stamp := none }

/-- The Burst Sequencer at power-on (R63). -/
def Sequencer.powerOn : Sequencer :=
  { current := none, profile := none, captured := none, position := none, firstStep := false,
    laser := .off, wfault := false, overrun := none }

/-- The Link Controller at power-on (R129), the line at its idle level (R128); the idle count is a DESIGN CHOICE (log
10). -/
def Link.powerOn : Link :=
  { queue := [], onLine := none, bit := 0, receiver := .idle, assembly := [], byteBits := none,
    lineHigh := true, collisions := 0, collided := none, postSend := false, idleCount := 0 }

/-- An ABSENT Peer Table entry with its fields cleared (R161). -/
def PeerEntry.absentEntry : PeerEntry :=
  { state := .absent, lastHeard := 0, unit := none, digest := none, announced := false }

/-- The Peer Table with every entry ABSENT but the own one, which is SELF (R161). -/
def PeerBlock.clearedTable (own : Station) : List PeerEntry :=
  (List.replicate 8 PeerEntry.absentEntry).set own.toNat { PeerEntry.absentEntry with state := .self }

/-- The Peer Block at power-on (R161), and on entry to LISTEN from anywhere but SETUP (R13, R146). -/
def PeerBlock.cleared (own : Station) : PeerBlock :=
  { table := PeerBlock.clearedTable own, sync := .none, requester := false, awaited := [],
    requesterPulses := 0, reRequest := false, quiet := none, quietPulses := 0, listenPulses := 0,
    adopted := false, joinSent := false }

/-- The configuration at power-on (Table 10-5). -/
def Configuration.powerOn : Configuration :=
  { bTotal := 0, headCount := 1, linkRate := 1, lMax := 1024, gMin := 0, lateTol := 64, stepDuration := 10,
    monitorWindow := 16, deviationThreshold := 4, calLength := 400, calLevel := 8, thresholdReference := 32,
    writeReference := 192, fence := { side := .none, extent := 0 } }

/-- The restrictions at power-on (R168). -/
def Restrictions.powerOn : Restrictions :=
  { calibrate := false, load := false, trim := false, fence := { side := .none, extent := 0 } }

/-- The fault record with no cause (R170). -/
def FaultRecord.clear : FaultRecord := { cause := none, stamp := 0, further := false }

/-- The machine right after the rise of RSTn (R174). Station number 0 and the low input lines are a DESIGN
CHOICE (log 17): the manual reads them from outside. -/
def State.reset : State :=
  { pending := [], free := 0,
    pins := { rstn := true, wgate := false, sgate := false, railAlert := false, monlo := false,
              monhi := false },
    clock := Clock.powerOn, table := [], plans := { records := [], finished := [], accepted := 0 },
    seq := Sequencer.powerOn, drive := { sent := [], references := none }, burst := none,
    store := ProfileStore.powerOn, heads := List.replicate 16 HeadRecord.powerOn, search := none,
    link := Link.powerOn, peers := PeerBlock.cleared 0, station := .setup, number := 0,
    config := Configuration.powerOn, restrictions := Restrictions.powerOn, fault := FaultRecord.clear,
    reply := none }

end Sys2Proof.Machine
end

