-- ==== Sys2Proof/Machine/Ops.lean ====
section
/-! DEFINITION. The named operations that every block shares: rotational time and windows, the clock, the
sample memory, the records of the Plan Queue, the transmit queue, the laser drive link, the finishing of a
record, and the reply of the plan port. -/

namespace Sys2Proof.Machine

/-! ### Rotational time (chapter 1) -/

/-- The modular difference a − b mapped into −524288..+524287 (R6). -/
def timeDiff (a b : Time) : Int := (a - b).toInt

/-- a is before b (R6). -/
def timeBefore (a b : Time) : Bool := decide (timeDiff a b < 0)

/-- a is at or before b (R6). -/
def timeAtOrBefore (a b : Time) : Bool := decide (timeDiff a b ≤ 0)

/-- a is after b (R6). -/
def timeAfter (a b : Time) : Bool := decide (0 < timeDiff a b)

/-- The earlier of two times (R6). -/
def timeEarlier (a b : Time) : Time := if timeBefore a b then a else b

/-- A time plus a duration, modulo 1048576 (R5). -/
def timePlus (t : Time) (d : Nat) : Time := t + BitVec.ofNat 20 d

/-- A time minus a duration, modulo 1048576 (R5). -/
def timeMinus (t : Time) (d : Nat) : Time := t - BitVec.ofNat 20 d

/-- The instant t lies in the half-open window from ws to we (R7). -/
def windowContains (ws we t : Time) : Bool := !timeBefore t ws && timeBefore t we

/-- Two windows overlap: each one's start is before the other's end and both spans are positive (R7). -/
def windowsOverlap (ws we vs ve : Time) : Bool :=
  timeBefore ws ve && timeBefore vs we && timeAfter we ws && timeAfter ve vs

/-- The clock's rotational time (R5). -/
def Clock.now (c : Clock) : Time := c.revolution ++ c.angle

/-- The station's rotational time. -/
def State.now (s : State) : Time := s.clock.now

/-- The clock advances: spindle-valid set and hold clear (R3). -/
def Clock.running (c : Clock) : Bool := c.valid && !c.hold

/-- The clock at an angle of its revolution, to which it has advanced: at 4095 it holds (R3). -/
def Clock.advanceTo (c : Clock) (a : BitVec 12) : Clock := { c with angle := a, hold := decide (a = 4095) }

/-- A time is reached when the clock equals it or has passed it (R4). -/
def State.reached (s : State) (t : Time) : Bool := !timeBefore s.now t

/-- One INDEX pulse, `interval` of the reference clock after the one before (R2). -/
def Clock.pulse (c : Clock) (interval : Nat) : Clock :=
  { revolution := c.revolution + 1, angle := 0,
    period := if c.pulseSeen then some interval else none,
    hold := false, valid := c.pulseSeen, pulseSeen := true }

/-- The clock at spindle loss: held at angle 4095, unrated (R11). -/
def Clock.lost (c : Clock) : Clock := { c with period := none, valid := false, pulseSeen := false }

/-! ### The sample memory (R97) -/

/-- What an erased sample reads as (R97). -/
def erasedByte : Byte := 0

/-- The byte at an index; an unlisted index reads as erased. -/
def Memory.read : Memory → Nat → Byte
  | [], _ => erasedByte
  | (k, v) :: m, a => if k = a then v else Memory.read m a

/-- Write one byte, keeping the canonical form. -/
def Memory.write : Memory → Nat → Byte → Memory
  | [], a, v => if v = erasedByte then [] else [(a, v)]
  | (k, w) :: m, a, v =>
    if a < k then (if v = erasedByte then (k, w) :: m else (a, v) :: (k, w) :: m)
    else if a = k then (if v = erasedByte then m else (a, v) :: m)
    else (k, w) :: Memory.write m a v

/-- The canonical form: indexes strictly rising, no erased byte listed. -/
def Memory.wf : Memory → Bool
  | [] => true
  | [(_, v)] => v != erasedByte
  | (k, v) :: (k', v') :: m => decide (k < k') && v != erasedByte && Memory.wf ((k', v') :: m)

/-! ### Records of the Plan Queue (chapter 3) -/

/-- A record in any state except FINISHED (Table 0-2). -/
def Record.live (r : Record) : Bool := decide (r.state ≠ .finished)

/-- A record in an executing state (section 3.5). -/
def Record.executing (r : Record) : Bool :=
  match r.state with
  | .preheat | .ready | .writing | .paused _ | .tail | .calibrating => true
  | .queued | .claiming | .granted | .finished => false

/-- FINISHED with no release pending (R61). -/
def Record.collectable (r : Record) : Bool := !r.live && !r.releasePending

/-- The record that holds a tag (R38: at most one). -/
def PlanQueue.find (q : PlanQueue) (t : Tag) : Option Record := q.records.find? (fun r => r.tag == t)

/-- Change the record that holds a tag. -/
def PlanQueue.update (q : PlanQueue) (t : Tag) (f : Record → Record) : PlanQueue :=
  { q with records := q.records.map (fun r => if r.tag = t then f r else r) }

/-- Change the record that holds a tag. -/
def State.updateRecord (s : State) (t : Tag) (f : Record → Record) : State :=
  { s with plans := s.plans.update t f }

/-- The record of the current plan. -/
def State.currentRecord (s : State) : Option Record := s.seq.current.bind s.plans.find

/-- How a record finishes: its outcome, the release stamp of the RELEASE to be queued, and the optional
parts made present (R49). -/
structure Ending where
  outcome    : PlanOutcome
  release    : Option Time := none
  hint       : Option Time := none
  report     : Option Report := none
  calResult  : Option CalResult := none
  faultStamp : Option Time := none
  deriving DecidableEq, Repr

/-- The record as it stands once finished (R49, points 1 to 4, 7 and 8). -/
def Record.finish (r : Record) (e : Ending) (now : Time) : Record :=
  { r with state := .finished, cancel := none, outcome := some e.outcome, finishStamp := some now,
           hint := e.hint, report := e.report, calResult := e.calResult, faultStamp := e.faultStamp,
           releasePending := e.release.isSome }

/-- The queue as a record finishes: it takes its place in finish order (R49, point 5). -/
def PlanQueue.finish (q : PlanQueue) (t : Tag) (e : Ending) (now : Time) : PlanQueue :=
  { q.update t (fun r => r.finish e now) with finished := q.finished ++ [t] }

/-! ### The transmit queue (chapter 8) -/

/-- What names an entry of the transmit queue. -/
def TxEntry.key : TxEntry → TxKey
  | .claim n _ _ _ _ => .claim n
  | .release n _ => .release n
  | .beacon => .beacon
  | .join => .join
  | .syncRequest => .syncRequest
  | .syncDone => .syncDone
  | .announce _ _ => .announce

/-- An entry with this key is in the queue, its frame waiting or on the line. -/
def Link.holds (l : Link) (k : TxKey) : Bool := l.queue.any (fun e => e.key == k)

/-- An entry joins at the tail (R139). -/
def Link.enqueue (l : Link) (e : TxEntry) : Link := { l with queue := l.queue ++ [e] }

/-- An entry joins unless one of its kind is in the queue (R139, log 18). -/
def Link.enqueueOnce (l : Link) (e : TxEntry) : Link := if l.holds e.key then l else l.enqueue e

/-- An entry leaves the queue without being sent; where its frame collided last, the collision count
clears (R135, log 33). -/
def Link.withdraw (l : Link) (k : TxKey) : Link :=
  let q := l.queue.filter (fun e => e.key != k)
  if l.collided = some k then { l with queue := q, collisions := 0, collided := none }
  else { l with queue := q }

/-- The JOIN or SYNC-REQUEST of the station joins unless one of the two is in the queue (R139). -/
def Link.enqueueRequest (l : Link) (e : TxEntry) : Link :=
  if l.holds .join || l.holds .syncRequest then l else l.enqueue e

/-- RESTART and spindle loss empty the queue; a frame on the line completes, its loopback discarded
(R142). -/
def Link.clear (l : Link) : Link :=
  { l with queue := [], onLine := l.onLine.map (fun o => { o with discard := true }), collisions := 0,
           collided := none, postSend := false }

/-- The transmit queue as a record finishes: a QUEUED record's CLAIM leaves, a RELEASE joins (R49, points 6
and 7; R50). -/
def Link.finishing (l : Link) (r : Record) (release : Option Time) : Link :=
  let l' := if r.state = .queued then l.withdraw (.claim r.claim) else l
  match release with
  | none => l'
  | some x => l'.enqueue (.release r.claim x)

/-- A record finishes, in one action (R49). -/
def State.finish (s : State) (r : Record) (e : Ending) : State :=
  { s with plans := s.plans.finish r.tag e s.now, link := s.link.finishing r e.release }

/-- The release stamp of a record that ends while executing: its finish stamp, when that is before the
window end (R50). -/
def executedRelease (now : Time) (r : Record) : Option Time :=
  if timeBefore now r.windowEnd then some now else none

/-- Finish several records in one action, in the order given. -/
def State.finishAll (s : State) (rs : List Record) (e : Record → Ending) : State :=
  rs.foldl (fun acc r => acc.finish r (e r)) s

/-! ### The laser drive link (R64, R89, R120) -/

/-- Send a new laser output, unless it equals the one last sent (R64). The head number of an off message is
a free value (log 11). -/
def State.setLaser (s : State) (l : Laser) : State :=
  if s.seq.laser = l then s
  else match l with
    | .off =>
      { s with seq := { s.seq with laser := .off }, free := s.free + 1,
               drive := { s.drive with sent := s.drive.sent ++ [.drive (Config.offHead s.free) false 0] } }
    | .on h c =>
      { s with seq := { s.seq with laser := .on h c },
               drive := { s.drive with sent := s.drive.sent ++ [.drive (BitVec.ofNat 4 h) true c] } }

/-- Send a reference pair, unless it equals the pair last sent (R89, R120). -/
def State.setReferences (s : State) (low high : Nat) : State :=
  if s.drive.references = some (low, high) then s
  else { s with drive := { sent := s.drive.sent ++ [.references low high],
                           references := some (low, high) } }

/-! ### The plan port's reply (R162) -/

/-- The reply to the request just handled becomes the held reply (R162, R164). -/
def State.answer (s : State) (kind : Byte) (result : Result) (payload : List Byte := []) : State :=
  { s with reply := some { kind := kind, result := result, payload := payload } }

/-- A sound request of a known kind: its payload's size is checked before its own rule (R164). While RSTn is
low the part takes no transaction (R174). -/
def State.request (s : State) (kind : Byte) (payload : List Byte) (size : Nat) (handle : State → State) :
    State :=
  if !s.pins.rstn then s
  else if payload.length ≠ size then s.answer kind .badLength
  else handle s

/-! ### Station conditions -/

/-- The zones a fence covers (R41). -/
def Fence.covers (f : Fence) (zone : Nat) : Bool :=
  match f.side with
  | .none => false
  | .low => decide (zone < f.extent)
  | .high => decide (16 - f.extent ≤ zone)

/-- The sequencer, the queue and the deadlines take events: RSTn is high and the station is not HALTED
(R39, R85, R174). -/
def State.takesEvents (s : State) : Bool := s.pins.rstn && decide (s.station ≠ .halted)

/-- The Share Table takes link frames (R19). -/
def State.takesFrames (s : State) : Bool :=
  decide (s.station = .joining) || decide (s.station = .active)

/-- The Link Controller reads the line (R128). -/
def State.readsLine (s : State) : Bool := decide (s.station = .listen) || s.takesFrames

end Sys2Proof.Machine
end

