-- ==== Sys2Proof/Machine/Flags.lean ====
section
/-! DEFINITION. The flags the part shows outside: WFAULT, the fault record and ATTN. -/

namespace Sys2Proof.Machine

/-- A cause of Table 4-5 is taken: WFAULT is asserted if WGATE is high, and stays as it is otherwise
(R83). -/
def State.assertWfault (s : State) : State :=
  { s with seq := { s.seq with wfault := s.seq.wfault || s.pins.wgate } }

/-- The fall of WGATE deasserts WFAULT (R83). -/
def State.releaseWfault (s : State) : State := { s with seq := { s.seq with wfault := false } }

/-- A cause is written: the first unread one is kept, a later one sets the further-faults flag (R170). -/
def FaultRecord.write (f : FaultRecord) (c : FaultCause) (stamp : Time) : FaultRecord :=
  match f.cause with
  | none => { f with cause := some c, stamp := stamp }
  | some _ => { f with further := true }

/-- A cause is written to the station's fault record (R170). -/
def State.writeFault (s : State) (c : FaultCause) (stamp : Time) : State :=
  { s with fault := s.fault.write c stamp }

/-- ATTN: high while a record is collectable or a fault cause is unread (R62); low while RSTn is low
(R174). -/
def State.attn (s : State) : Bool :=
  s.pins.rstn && (s.plans.records.any Record.collectable || s.fault.cause.isSome)

end Sys2Proof.Machine
end

