-- ==== Sys2Proof/Machine/Operands.lean ====
section
/-! DEFINITION. The byte forms of operands and replies: reading the fields of a payload and writing the
fields of a reply, low byte first (R176), with the codes of chapters 7, 10 and 11. -/

namespace Sys2Proof.Machine

/-! ### Reading -/

/-- The byte at an offset of a payload, as a number. -/
def byteAt (p : List Byte) (i : Nat) : Nat := (p.getD i 0).toNat

/-- A two-byte field, low byte first (R176). -/
def wordAt (p : List Byte) (i : Nat) : Nat := byteAt p i + 256 * byteAt p (i + 1)

/-- A three-byte field, low byte first (R176). -/
def tripleAt (p : List Byte) (i : Nat) : Nat := wordAt p i + 65536 * byteAt p (i + 2)

/-- A rotational time of a link frame: the low 20 bits of its three bytes (R177). -/
def timeAt (p : List Byte) (i : Nat) : Time := BitVec.ofNat 20 (tripleAt p i)

/-! ### Writing -/

/-- One byte. -/
def byte1 (n : Nat) : List Byte := [BitVec.ofNat 8 n]

/-- Two bytes, low byte first (R176). -/
def byte2 (n : Nat) : List Byte := [BitVec.ofNat 8 n, BitVec.ofNat 8 (n / 256)]

/-- Three bytes, low byte first (R176). -/
def byte3 (n : Nat) : List Byte := byte2 n ++ byte1 (n / 65536)

/-- Four bytes, low byte first (R176). -/
def byte4 (n : Nat) : List Byte := byte3 n ++ byte1 (n / 16777216)

/-- A flag byte: 0 clear, 1 set (R176). -/
def flagByte (b : Bool) : List Byte := byte1 (if b then 1 else 0)

/-- A rotational time in 3 bytes, the upper four bits 0 (R177). -/
def timeBytes (t : Time) : List Byte := byte3 t.toNat

/-- An optional time: 0 when absent (R177). -/
def optTimeBytes (t : Option Time) : List Byte := timeBytes (t.getD 0)

/-- A trim in one byte, two's complement (R178). -/
def trimByte (t : Int) : List Byte := [BitVec.ofInt 8 t]

/-! ### Codes (Table 11-1 and others) -/

def kindCode : PlanKind → Nat
  | .write => 0
  | .cal => 1

def stationCode : StationState → Nat
  | .setup => 0
  | .listen => 1
  | .joining => 2
  | .active => 3
  | .halted => 4

def syncCode : SyncState → Nat
  | .none => 0
  | .inSync => 1
  | .desync => 2
  | .resyncing => 3

def bankCode : BankState → Nat
  | .empty => 0
  | .loading => 1
  | .ready => 2
  | .swapPending => 3

def swapCode : SwapOutcome → Nat
  | .none => 0
  | .done => 1
  | .refused _ => 2
  | .cancelled => 3

/-- The blocking tag, 0 unless REFUSED (Table 11-7). -/
def swapTag : SwapOutcome → Nat
  | .refused t => t.toNat
  | .none | .done | .cancelled => 0

def peerCode : PeerState → Nat
  | .absent => 0
  | .joining => 1
  | .active => 2
  | .lost => 3
  | .self => 4

def recordCode : RecordState → Nat
  | .queued => 0
  | .claiming => 1
  | .granted => 2
  | .preheat => 3
  | .ready => 4
  | .writing => 5
  | .paused .preheat => 6
  | .paused .ready => 7
  | .paused .writing => 8
  | .tail => 9
  | .calibrating => 10
  | .finished => 11

def outcomeCode : PlanOutcome → Nat
  | .done => 0
  | .calFail => 1
  | .denied => 2
  | .late => 3
  | .missed => 4
  | .coldWrite => 5
  | .overrun => 6
  | .servoClash => 7
  | .rail => 8
  | .interrupted => 9
  | .cancelled => 10
  | .fenced => 11
  | .headSuspect => 12
  | .spindle => 13

def cancelCode : Option CancelMode → Nat
  | none => 0
  | some .immediate => 1
  | some .segmentEnd => 2

def classCode : BurstClass → Nat
  | .clean => 0
  | .drift => 1
  | .marginal => 2
  | .loss => 3

def calCauseCode : CalCause → Nat
  | .none => 0
  | .monitor => 1
  | .writeLimit => 2

def headStateCode : HeadState → Nat
  | .uncal => 0
  | .valid => 1
  | .suspect => 2

def headSourceCode : HeadSource → Nat
  | .set => 0
  | .cal => 1

def fenceCode : FenceSide → Nat
  | .none => 0
  | .low => 1
  | .high => 2

def faultCode : Option FaultCause → Nat
  | none => 0
  | some .strayGate => 1
  | some .clashSeen => 2
  | some .spindleLost => 3
  | some .linkFault => 4
  | some .idClash => 5

/-- Result codes (Table 10-8). -/
def resultCode : Result → Nat
  | .ok => 0
  | .frameError => 1
  | .unknownKind => 2
  | .badLength => 3
  | .badArgument => 4
  | .wrongState => 5
  | .busy => 6
  | .queueFull => 7
  | .tagInUse => 8
  | .noSuchTag => 9
  | .headNotReady => 10
  | .fenced => 11
  | .noProfile => 12
  | .tooSoon => 13
  | .tooFar => 14
  | .tooLong => 15
  | .ownOverlap => 16
  | .headGap => 17
  | .withdrawn => 18
  | .tooLate => 19
  | .empty => 20
  | .received => 21
  | .loadFailed => 22

/-- The side a code names (R169, Table 10-5). -/
def fenceSideOf (c : Nat) : Option FenceSide :=
  match c with
  | 0 => some .none
  | 1 => some .low
  | 2 => some .high
  | _ => none

/-! ### Reply payloads -/

/-- The presence byte of a plan record (R179). -/
def presenceByte (r : Record) : List Byte :=
  byte1 ((if r.outcome.isSome then 1 else 0) + (if r.hint.isSome then 2 else 0)
    + (if r.report.isSome then 4 else 0) + (if r.calResult.isSome then 8 else 0)
    + (if r.faultStamp.isSome then 16 else 0))

/-- The monitor report, 9 bytes, 0 when absent (Table 11-6, offsets 34 to 42). -/
def reportBytes : Option Report → List Byte
  | none => List.replicate 9 0
  | some r => byte1 r.q0 ++ byte1 r.q1 ++ byte1 r.q2 ++ byte1 r.q3 ++ byte1 r.low ++ byte1 r.high
      ++ byte1 r.maximum ++ byte1 r.maxIndex ++ byte1 (classCode r.cls)

/-- The calibration result, 6 bytes, 0 when absent (Table 11-6, offsets 43 to 48). -/
def calResultBytes : Option CalResult → List Byte
  | none => List.replicate 6 0
  | some c => byte2 c.threshold ++ byte2 c.write ++ byte1 (calCauseCode c.cause) ++ byte1 c.monlo

/-- The 52 bytes of a plan record (Table 11-6). -/
def recordBytes (r : Record) : List Byte :=
  [r.tag] ++ byte1 (kindCode r.kind) ++ byte1 r.head ++ byte1 r.zone ++ timeBytes r.planStart
  ++ byte2 r.length ++ byte2 r.lead ++ byte2 r.tailAllowance ++ byte1 r.level
  ++ timeBytes r.windowStart ++ timeBytes r.windowEnd ++ byte1 r.claim ++ byte2 r.sequence.toNat
  ++ byte1 (recordCode r.state) ++ byte1 (cancelCode r.cancel) ++ flagByte r.releasePending
  ++ presenceByte r ++ byte1 ((r.outcome.map outcomeCode).getD 0) ++ optTimeBytes r.finishStamp
  ++ optTimeBytes r.hint ++ reportBytes r.report ++ calResultBytes r.calResult
  ++ optTimeBytes r.faultStamp

/-- The READ-HEAD reply (Table 7-3). -/
def headBytes (h : Nat) (r : HeadRecord) : List Byte :=
  byte1 h ++ byte1 (headStateCode r.state) ++ byte2 r.threshold ++ byte2 r.write ++ trimByte r.trim
  ++ byte1 (headSourceCode r.source) ++ flagByte r.stamp.isSome ++ optTimeBytes r.stamp

/-- The reply to an accepted POST or CALIBRATE (Table 11-5). -/
def acceptedBytes (r : Record) : List Byte :=
  timeBytes r.windowStart ++ timeBytes r.windowEnd ++ byte1 r.claim

/-- The eight bits of a byte given from bit 0 upwards, as a number. -/
def bitsNat : List Bool → Nat
  | [] => 0
  | b :: bs => (if b then 1 else 0) + 2 * bitsNat bs

/-- The 52 bytes of the status (Table 11-7, R180). The two bytes of a last digest that an entry does not hold
are 0, the model's choice (log 37). -/
def State.statusBytes (s : State) : List Byte :=
  byte1 (stationCode s.station) ++ byte1 s.number.toNat ++ byte1 (syncCode s.peers.sync)
  ++ flagByte s.peers.quiet.isSome ++ byte1 ((s.peers.quiet.map BitVec.toNat).getD 0)
  ++ byte1 (match s.store.active with | .a => 0 | .b => 1)
  ++ byte1 (bankCode s.store.bankA.state) ++ byte1 (bankCode s.store.bankB.state)
  ++ byte1 (swapCode s.store.lastSwap) ++ byte1 (swapTag s.store.lastSwap)
  ++ byte1 s.plans.records.length ++ byte1 (s.plans.records.filter Record.live).length
  ++ byte1 s.link.queue.length
  ++ byte1 (s.table.filter (fun e => decide (e.origin = .admitted))).length
  ++ byte1 (s.table.filter (fun e => decide (e.origin = .announced))).length
  ++ s.peers.table.flatMap (fun e => byte1 (peerCode e.state))
  ++ byte1 (bitsNat (s.peers.table.map (fun e => e.digest.isSome)))
  ++ s.peers.table.flatMap (fun e => byte2 ((e.digest.map BitVec.toNat).getD 0))
  ++ byte1 s.clock.revolution.toNat ++ byte2 s.clock.angle.toNat
  ++ byte1 (bitsNat [s.clock.hold, s.clock.valid])
  ++ byte1 (bitsNat [s.restrictions.calibrate, s.restrictions.load, s.restrictions.trim])
  ++ byte1 (fenceCode s.restrictions.fence.side) ++ byte1 s.restrictions.fence.extent
  ++ byte1 (faultCode s.fault.cause) ++ timeBytes s.fault.stamp ++ flagByte s.fault.further

/-- One Peer Table entry of IDENTIFY: presence and unit code; the own entry reports the station's own unit
code (R172). -/
def peerIdentity (e : PeerEntry) : List Byte :=
  let unit := if e.state = .self then some Config.unitCode else e.unit
  flagByte unit.isSome ++ byte4 ((unit.map BitVec.toNat).getD 0)

/-- The 48 bytes of IDENTIFY (R172). -/
def State.identityBytes (s : State) : List Byte :=
  byte2 Config.deviceCode ++ [Config.revision] ++ byte4 Config.unitCode.toNat
  ++ byte1 s.number.toNat ++ s.peers.table.flatMap peerIdentity

end Sys2Proof.Machine
end

