-- ==== Sys2Proof/Machine/ProfileStore.lean ====
section
/-! DEFINITION. The Profile Store (chapter 6): the two banks, loading the standby bank, exchanging the
banks. -/

namespace Sys2Proof.Machine

/-- The active bank (R98). -/
def ProfileStore.activeBank (p : ProfileStore) : Bank :=
  match p.active with
  | .a => p.bankA
  | .b => p.bankB

/-- The standby bank (R98). -/
def ProfileStore.standbyBank (p : ProfileStore) : Bank :=
  match p.active with
  | .a => p.bankB
  | .b => p.bankA

/-- Replace the standby bank. -/
def ProfileStore.setStandby (p : ProfileStore) (b : Bank) : ProfileStore :=
  match p.active with
  | .a => { p with bankB := b }
  | .b => { p with bankA := b }

/-- The profile of a bank for a zone (R97). -/
def Bank.profile (b : Bank) (zone : Nat) : Option Profile := b.profiles.getD zone none

/-- The descriptor of a bank. -/
def Bank.descriptor (b : Bank) (i : Nat) : Descriptor := b.descriptors.getD i { first := 0, count := 0 }

/-- A swap waits for a moment with no plan executing (Table 6-3). -/
def ProfileStore.swapPending (p : ProfileStore) : Bool := decide (p.standbyBank.state = .swapPending)

/-! ### Loading (sections 6.3 and 6.4) -/

/-- The number of bytes the load should carry (Table 6-6). -/
def Load.expected (l : Load) : Nat := 4 * l.d + 14 * l.p + l.n

/-- A new load record (Table 6-6). -/
def Load.begin (n d p : Nat) : Load :=
  { n := n, d := d, p := p, received := 0, badDescriptor := none, badReference := none, badZone := none,
    badLimits := none, zonesSeen := [], item := [], profiles := [] }

/-- An accepted LOAD erases the standby bank and makes it LOADING (R100, R101). -/
def ProfileStore.beginLoad (p : ProfileStore) (n d q : Nat) : ProfileStore :=
  { p.setStandby { Bank.erased with state := .loading } with load := some (Load.begin n d q) }

/-- A load ends without a usable bank: erased, EMPTY, the load record discarded (R99, R105, R106, R113). -/
def ProfileStore.dropLoad (p : ProfileStore) : ProfileStore :=
  { p.setStandby Bank.erased with load := none }

/-- The earliest item found failing a check is kept (R104). -/
def firstFailure (old : Option Nat) (failed : Bool) (index : Nat) : Option Nat :=
  match old with
  | some i => some i
  | none => if failed then some index else none

/-- A descriptor from its 4 bytes (Table 6-7). -/
def descriptorOf (item : List Byte) : Descriptor := { first := wordAt item 0, count := wordAt item 2 }

/-- The preheat count of a profile record: the low four bits of its byte 1 (Table 6-7). -/
def preheatCount (item : List Byte) : Nat := byteAt item 1 % 16

/-- The tail count of a profile record: the high four bits of its byte 1 (Table 6-7). -/
def tailCount (item : List Byte) : Nat := byteAt item 1 / 16

/-- The first min(count, 3) slots of a list of three (R103). -/
def slotsRead (item : List Byte) (offset count : Nat) : List Nat :=
  [byteAt item offset, byteAt item (offset + 1), byteAt item (offset + 2)].take (min count 3)

/-- A profile record from its 14 bytes (Table 6-7). -/
def profileOf (item : List Byte) : Profile :=
  { preheat := slotsRead item 2 (preheatCount item), write := byteAt item 5,
    tail := slotsRead item 6 (tailCount item), hold := byteAt item 9, level := byteAt item 10,
    lead := tripleAt item 11 % 4096, tailAllowance := tripleAt item 11 / 4096 }

/-- LIMITS fails for a profile record (R104). -/
def limitsFail (item : List Byte) : Bool :=
  let p := profileOf item
  decide (preheatCount item < 1) || decide (3 < preheatCount item) || decide (3 < tailCount item)
  || decide (p.lead < 16) || decide (2047 < p.lead) || decide (1023 < p.tailAllowance)
  || decide (3583 < p.lead + p.tailAllowance) || decide (p.level = 0)

/-- REFERENCE fails for a profile record: a slot read names an index of D or above (R104). -/
def referenceFails (d : Nat) (p : Profile) : Bool :=
  p.preheat.any (fun i => decide (d ≤ i)) || decide (d ≤ p.write) || p.tail.any (fun i => decide (d ≤ i))

/-- A descriptor is complete: it is stored and checked (R104). -/
def takeDescriptor (l : Load) (b : Bank) (index : Nat) (item : List Byte) : Load × Bank :=
  let x := descriptorOf item
  ({ l with item := [],
            badDescriptor := firstFailure l.badDescriptor
              (decide (x.count = 0) || decide (l.n < x.first + x.count)) index },
   { b with descriptors := b.descriptors.set index x })

/-- A profile record is complete: it is read and checked (R104). -/
def takeProfile (l : Load) (index : Nat) (item : List Byte) : Load :=
  let p := profileOf item
  let zone := byteAt item 0
  let zoneFails := decide (15 < zone) || l.zonesSeen.contains zone
  { l with item := [],
           badReference := firstFailure l.badReference (referenceFails l.d p) index,
           badZone := firstFailure l.badZone zoneFails index,
           badLimits := firstFailure l.badLimits (limitsFail item) index,
           zonesSeen := if zoneFails then l.zonesSeen else l.zonesSeen ++ [zone],
           profiles := l.profiles ++ [(zone, p)] }

/-- One byte of the load is placed by its position (R102). -/
def takeByte (lb : Load × Bank) (x : Byte) : Load × Bank :=
  let l := lb.1
  let b := lb.2
  let pos := l.received
  let l' := { l with received := min (pos + 1) 65535 }
  let item := l.item ++ [x]
  if pos < 4 * l.d then
    if item.length = 4 then takeDescriptor l' b (pos / 4) item else ({ l' with item := item }, b)
  else if pos < 4 * l.d + 14 * l.p then
    if item.length = 14 then (takeProfile l' ((pos - 4 * l.d) / 14) item, b)
    else ({ l' with item := item }, b)
  else if pos < l.expected then
    (l', { b with samples := Memory.write b.samples (pos - 4 * l.d - 14 * l.p) x })
  else (l', b)

/-- The verdict of a load and the item index reported with it (Table 6-8). -/
def Load.verdict (l : Load) : Nat × Nat :=
  if l.received ≠ l.expected then (1, 0)
  else match l.badDescriptor with
  | some i => (2, i)
  | none => match l.badReference with
    | some i => (3, i)
    | none => match l.badZone with
      | some i => (4, i)
      | none => match l.badLimits with
        | some i => (5, i)
        | none => (0, 0)

/-- The bank of a load with verdict OK: READY, each profile record at the zone it names (R105). -/
def readyBank (l : Load) (b : Bank) : Bank :=
  { b with state := .ready,
           profiles := l.profiles.foldl (fun ps zp => ps.set zp.1 (some zp.2)) b.profiles }

/-- The bytes of one DATA frame are taken (R102). -/
def ProfileStore.takeData (p : ProfileStore) (l : Load) (payload : List Byte) : ProfileStore :=
  let lb := payload.foldl takeByte (l, p.standbyBank)
  { p.setStandby lb.2 with load := some lb.1 }

/-- The load ends with its verdict (R105). -/
def ProfileStore.endLoad (p : ProfileStore) (l : Load) : ProfileStore :=
  if l.verdict.1 = 0 then { p.setStandby (readyBank l p.standbyBank) with load := none }
  else p.dropLoad

/-! ### Exchanging the banks (section 6.5) -/

/-- A record passes the check of a swap against the standby bank (R109). -/
def swapPasses (b : Bank) (r : Record) : Bool :=
  match b.profile r.zone with
  | none => false
  | some p => decide (p.level ≤ r.level) && decide (p.lead ≤ r.lead)
      && decide (p.tailAllowance ≤ r.tailAllowance)

/-- The blocking record: the first live WRITE record, in acceptance order, that does not pass (R109). -/
def swapBlocker (b : Bank) (records : List Record) : Option Record :=
  records.find? (fun r => r.live && decide (r.kind = .write) && !swapPasses b r)

/-- The other bank. -/
def BankId.other : BankId → BankId
  | .a => .b
  | .b => .a

/-- The swap completes (R110). -/
def ProfileStore.completeSwap (p : ProfileStore) : ProfileStore :=
  { p.setStandby { p.standbyBank with state := .ready } with
    active := p.active.other, lastSwap := .done }

/-- The resolution of a pending swap: completed, or refused with the blocking record's tag (R109 to
R111). -/
def ProfileStore.resolveSwap (p : ProfileStore) (records : List Record) : ProfileStore :=
  match swapBlocker p.standbyBank records with
  | none => p.completeSwap
  | some r => { p.setStandby { p.standbyBank with state := .ready } with lastSwap := .refused r.tag }

/-- A pending swap is cancelled (R99, R113). -/
def ProfileStore.cancelSwap (p : ProfileStore) : ProfileStore :=
  { p.setStandby { p.standbyBank with state := .ready } with lastSwap := .cancelled }

/-- What RESTART and the withdrawal of LOAD do to the standby bank (R99, R113). -/
def ProfileStore.interrupt (p : ProfileStore) : ProfileStore :=
  match p.standbyBank.state with
  | .loading => p.dropLoad
  | .swapPending => p.cancelSwap
  | .empty | .ready => p

/-- A pending swap is resolved at this moment; nothing changes where none is pending (R108). -/
def State.resolvePendingSwap (s : State) : State :=
  if s.store.swapPending then { s with store := s.store.resolveSwap s.plans.records } else s

/-- A pending swap is due: no plan of a station that takes events is executing (R108). -/
def State.swapDue (s : State) : Bool := s.takesEvents && s.store.swapPending && s.seq.current.isNone

/-- A swap that is due is resolved (R108). -/
def State.resolveDueSwap (s : State) : State := if s.swapDue then s.resolvePendingSwap else s

end Sys2Proof.Machine
end

