-- ==== Sys2Proof/Machine/Monitor.lean ====
section
/-! DEFINITION. The Power Monitor (chapter 5) and the marking of heads (sections 4.9 and 7.5): references,
readings, the report, the trim step, SUSPECT and its effect on the head's other records. -/

namespace Sys2Proof.Machine

/-! ### Head records -/

/-- The record of a head (R114). -/
def State.headRecord (s : State) (h : Nat) : HeadRecord := s.heads.getD h HeadRecord.powerOn

/-- Replace the record of a head. -/
def State.setHeadRecord (s : State) (h : Nat) (r : HeadRecord) : State :=
  { s with heads := s.heads.set h r }

/-- The live WRITE records on a head that finish at its marking: QUEUED and GRANTED ones (R86). -/
def suspectSiblings (records : List Record) (h : Nat) : List Record :=
  records.filter (fun r => decide (r.kind = .write) && decide (r.head = h)
    && (decide (r.state = .queued) || decide (r.state = .granted)))

/-- How a sibling finishes: a GRANTED one with a RELEASE at its window start (R86). -/
def suspectEnding (r : Record) : Ending :=
  { outcome := .headSuspect, release := if r.state = .granted then some r.windowStart else none }

/-- A swap pending at a finishing that marks a head may be resolved before the endings of the head's other
records (R108): a free choice, drawn only where a swap is pending (log 12). -/
def State.swapBeforeEndings (s : State) : State :=
  if s.store.swapPending then
    if Config.swapFirst s.free then { s with store := s.store.resolveSwap s.plans.records, free := s.free + 1 }
    else { s with free := s.free + 1 }
  else s

/-- A SUSPECT marking: the head record's state, then the head's other live WRITE records (R126, R86). -/
def State.markSuspect (s : State) (h : Nat) : State :=
  let s1 := s.swapBeforeEndings
  let s2 := s1.setHeadRecord h { s1.headRecord h with state := .suspect }
  s2.finishAll (suspectSiblings s2.plans.records h) suspectEnding

/-! ### Bursts -/

/-- A burst opens for a record that enters WRITING (R88, R91). -/
def Burst.opened (r : Record) : Burst :=
  { tag := r.tag, head := r.head,
    boundary1 := timePlus r.planStart (1 * r.length / 4),
    boundary2 := timePlus r.planStart (2 * r.length / 4),
    boundary3 := timePlus r.planStart (3 * r.length / 4),
    sampling := false, target := 0, q0 := 0, q1 := 0, q2 := 0, q3 := 0, low := 0, high := 0 }

/-- The target of a write sample (R89). -/
def monitorTarget (c : Configuration) (sample : Nat) : Nat := c.writeReference * sample / 255

/-- The low reference of a target, clipped at 0 (R89). -/
def lowReference (c : Configuration) (target : Nat) : Nat := target - c.monitorWindow

/-- The high reference of a target, clipped at 255 (R89). -/
def highReference (c : Configuration) (target : Nat) : Nat := min (target + c.monitorWindow) 255

/-- A write sample is sent: its target is taken and its reference pair goes out (R89). -/
def State.monitorSample (s : State) (sample : Nat) : State :=
  let t := monitorTarget s.config sample
  let s1 : State := { s with burst := s.burst.map (fun b => { b with sampling := true, target := t }) }
  s1.setReferences (lowReference s.config t) (highReference s.config t)

/-- The monitor stops sampling: a pause or the end of writing (R88, R90). -/
def State.monitorStops (s : State) : State :=
  { s with burst := s.burst.map (fun b => { b with sampling := false }) }

/-- One deviation step is counted in the quarter of its time (R91, R92). -/
def Burst.deviation (b : Burst) (t : Time) : Burst :=
  if timeBefore t b.boundary1 then { b with q0 := min (b.q0 + 1) 15 }
  else if timeBefore t b.boundary2 then { b with q1 := min (b.q1 + 1) 15 }
  else if timeBefore t b.boundary3 then { b with q2 := min (b.q2 + 1) 15 }
  else { b with q3 := min (b.q3 + 1) 15 }

/-- The reading at the end of a whole write step (Table 5-3, R92). -/
def Burst.reading (b : Burst) (t : Time) (monlo monhi : Bool) : Burst :=
  let b1 := if monlo || monhi then b.deviation t else b
  let b2 := if monlo then { b1 with low := min (b1.low + 1) 255 } else b1
  if monhi then { b2 with high := min (b2.high + 1) 255 } else b2

/-- The class of a burst (Table 5-4). -/
def burstClass (threshold q0 q1 q2 q3 : Nat) : BurstClass :=
  if q0 = 15 ∨ q1 = 15 ∨ q2 = 15 ∨ q3 = 15 then .loss
  else if threshold ≤ q0 ∨ threshold ≤ q1 ∨ threshold ≤ q2 ∨ threshold ≤ q3 then .marginal
  else if 0 < q0 ∨ 0 < q1 ∨ 0 < q2 ∨ 0 < q3 then .drift
  else .clean

/-- The maximum quarter count (R93). -/
def Burst.maximum (b : Burst) : Nat := max (max b.q0 b.q1) (max b.q2 b.q3)

/-- The lowest quarter index that holds the maximum (R93). -/
def Burst.maxIndex (b : Burst) : Nat :=
  if b.q0 = b.maximum then 0 else if b.q1 = b.maximum then 1 else if b.q2 = b.maximum then 2 else 3

/-- The finalised report (R93). -/
def Burst.report (b : Burst) (threshold : Nat) : Report :=
  { q0 := b.q0, q1 := b.q1, q2 := b.q2, q3 := b.q3, low := b.low, high := b.high,
    maximum := b.maximum, maxIndex := b.maxIndex, cls := burstClass threshold b.q0 b.q1 b.q2 b.q3 }

/-- The trim the tallies ask for after a MARGINAL burst (R95). -/
def wantedTrim (trim : Int) (r : Report) : Int := if r.high < r.low then trim + 1 else trim - 1

/-- One trim step after a MARGINAL burst (R95): not made where TRIM is withdrawn or the tallies are equal;
past ±31 the head is marked instead (R96). -/
def State.trimStep (s : State) (h : Nat) (r : Report) : State :=
  if s.restrictions.trim || decide (r.low = r.high) then s
  else
    let t := wantedTrim (s.headRecord h).trim r
    if 31 < t ∨ t < -31 then s.markSuspect h
    else s.setHeadRecord h { s.headRecord h with trim := t }

/-- What follows the finishing of a burst's record: trim step or marking by the report's class (R95,
R96). -/
def State.afterBurst (s : State) (h : Nat) (report : Option Report) : State :=
  match report with
  | none => s
  | some r => match r.cls with
    | .loss => s.markSuspect h
    | .marginal => s.trimStep h r
    | .clean | .drift => s

end Sys2Proof.Machine
end

