-- ==== Sys2Proof/Machine/Sequencer.lean ====
section
/-! DEFINITION. The Burst Sequencer (chapter 4) and the calibration search (section 7.3), as operations on
the state: playing samples, entering READY and TAIL, ending the current plan. -/

namespace Sys2Proof.Machine

/-! ### Codes and play -/

/-- The laser code of a profile sample (R65). -/
def levelCode (v : HeadValues) (sample : Nat) : Nat :=
  let x : Int := (v.threshold : Int)
    + ((sample : Int) * ((v.write : Int) + v.trim - (v.threshold : Int)) + 127) / 255
  if x < 0 then 0 else if 1023 < x then 1023 else x.toNat

/-- The descriptor list of a phase (R66, R67). -/
def Profile.segments (p : Profile) : Phase → List Nat
  | .preheat => p.preheat
  | .write => [p.write]
  | .tail => p.tail

/-- The descriptor of a phase's segment in a bank. -/
def segmentOf (b : Bank) (p : Profile) (ph : Phase) (segment : Nat) : Descriptor :=
  b.descriptor ((p.segments ph).getD segment 0)

/-- The value of a sample of a segment (R67). -/
def sampleValue (b : Bank) (p : Profile) (ph : Phase) (segment sample : Nat) : Nat :=
  (Memory.read b.samples ((segmentOf b p ph segment).first + sample)).toNat

/-- The sample at the position is the last of its segment (R67). -/
def segmentEnded (b : Bank) (p : Profile) (pos : Position) : Bool :=
  match pos.sample with
  | none => false
  | some k => decide ((segmentOf b p pos.phase pos.segment).count ≤ k + 1)

/-- The segment and sample after the position within its phase; none at the end of the phase (R67). -/
def nextSample (b : Bank) (p : Profile) (pos : Position) : Option (Nat × Nat) :=
  match pos.sample with
  | none => some (pos.segment, 0)
  | some k =>
    if k + 1 < (segmentOf b p pos.phase pos.segment).count then some (pos.segment, k + 1)
    else if pos.segment + 1 < (p.segments pos.phase).length then some (pos.segment + 1, 0)
    else none

/-- Send a profile value for a record: its head at the mapped code (R64, R65). -/
def State.emit (s : State) (r : Record) (value : Nat) : State :=
  match s.seq.captured with
  | some v => s.setLaser (.on r.head (levelCode v value))
  | none => s

/-- Play one sample: the position, the laser output and, for a write sample, the monitor's references (R67,
R89). -/
def State.playSample (s : State) (r : Record) (p : Profile) (ph : Phase) (segment sample : Nat) : State :=
  let value := sampleValue s.store.activeBank p ph segment sample
  let s1 := { s with seq := { s.seq with
    position := some { phase := ph, segment := segment, sample := some sample } } }
  let s2 := s1.emit r value
  match ph with
  | .write => s2.monitorSample value
  | .preheat | .tail => s2

/-! ### Ending the current plan (R78) -/

/-- The sequencer's own items cleared, the laser and WFAULT as they are (R78, point 4). -/
def Sequencer.idle (q : Sequencer) : Sequencer :=
  { current := none, profile := none, captured := none, position := none, firstStep := false,
    laser := q.laser, wfault := q.wfault, overrun := none }

/-- The current plan ends: laser off, burst finalised, the record finished, the sequencer idle, and then
the trim step or marking (R78, R93, R95, R96). An open calibration search is discarded (R125). -/
def State.endPlan (s : State) (r : Record) (o : PlanOutcome) (fault : Option Time)
    (cal : Option CalResult := none) : State :=
  let report := s.burst.map (fun b => b.report s.config.deviationThreshold)
  let s1 := (s.setLaser .off).finish r
    { outcome := o, release := executedRelease s.now r, report := report, calResult := cal,
      faultStamp := fault }
  let s2 := { s1 with seq := s1.seq.idle, burst := none, search := none }
  s2.afterBurst r.head report

/-- A servo clash (R77). -/
def State.clash (s : State) (r : Record) : State :=
  s.assertWfault.endPlan r .servoClash (some s.now)

/-- The end of TAIL: OVERRUN, CANCELLED or DONE by how the tail was entered (R75, R76, R56). -/
def State.endTail (s : State) (r : Record) : State :=
  match s.seq.overrun with
  | some t => s.endPlan r .overrun (some t)
  | none => if r.cancel = some .segmentEnd then s.endPlan r .cancelled none else s.endPlan r .done none

/-- A record enters TAIL (R75); as an overrun with the stamp given, which drops a pending cancel (R76). A
SEGMENT_END cancel that the tail carries out stays the cancel-pending mode until the record finishes (R56, log 40). A
profile with no tail segments ends TAIL in the same action. -/
def State.enterTail (s : State) (r : Record) (p : Profile) (ovr : Option Time) : State :=
  let cancel := if ovr.isSome then none else r.cancel
  let s1 := (s.updateRecord r.tag (fun x => { x with state := .tail, cancel := cancel })).monitorStops
  let s2 := { s1 with seq := { s1.seq with firstStep := false, overrun := ovr } }
  let r' := { r with state := .tail, cancel := cancel }
  if p.tail = [] then s2.endTail r' else s2.playSample r' p .tail 0 0

/-- A record becomes PAUSED: the hold sample, the position frozen, no sampling (R71). -/
def State.pause (s : State) (r : Record) (p : Profile) (memory : PauseFrom) : State :=
  ((s.updateRecord r.tag (fun x => { x with state := .paused memory })).emit r p.hold).monitorStops

/-- A record enters READY at the hold sample, and the gates are examined (R69). -/
def State.enterReady (s : State) (r : Record) (p : Profile) : State :=
  let s1 := (s.updateRecord r.tag (fun x => { x with state := .ready })).emit r p.hold
  if s.pins.sgate then
    if s.pins.wgate then s1.clash { r with state := .ready }
    else s1.updateRecord r.tag (fun x => { x with state := .paused .ready })
  else s1

/-- Preheat play goes on after the sample at the position: the next sample, READY at the end of the phase,
or the end of the plan where a SEGMENT_END cancel waits for the segment's end (R67, R69, R55, log 21). -/
def State.advancePreheat (s : State) (r : Record) (p : Profile) (pos : Position) : State :=
  let b := s.store.activeBank
  if segmentEnded b p pos && decide (r.cancel = some .segmentEnd) then s.endPlan r .cancelled none
  else match nextSample b p pos with
    | some (g, k) => s.playSample r p .preheat g k
    | none => s.enterReady r p

/-- Write play goes on after the sample at the position: the next sample, the next pass, or the tail where
a SEGMENT_END cancel waits for the pass's end (R67, R56, log 21). -/
def State.advanceWrite (s : State) (r : Record) (p : Profile) (pos : Position) : State :=
  match nextSample s.store.activeBank p pos with
  | some (g, k) => s.playSample r p .write g k
  | none =>
    if r.cancel = some .segmentEnd then s.assertWfault.enterTail r p none
    else s.playSample r p .write 0 0

/-- Tail play goes on after the sample at the position, to the end of the tail (R67, R75). -/
def State.advanceTail (s : State) (r : Record) (p : Profile) (pos : Position) : State :=
  match nextSample s.store.activeBank p pos with
  | some (g, k) => s.playSample r p .tail g k
  | none => s.endTail r

/-- The monitor reads the comparator lines at the end of a whole write step (R90). -/
def State.monitorReading (s : State) (monlo monhi : Bool) : State :=
  { s with burst := s.burst.map (fun b => b.reading s.now monlo monhi) }

/-! ### The calibration search (section 7.3) -/

/-- The length of a calibration step (R80). -/
def calStepLength (c : Configuration) : Nat := c.calLength / 20

/-- The bit a step tries (R121, R122). -/
def calBit (step : Nat) : Nat := if step ≤ 10 then 10 - step else 20 - step

/-- The candidate of a step: above the threshold value in the threshold search, above the threshold code
found and the write offset in the write search (R121, R122). -/
def Search.candidate (x : Search) : Nat :=
  if x.step ≤ 10 then x.threshold + 2 ^ calBit x.step else x.threshold + x.offset + 2 ^ calBit x.step

/-- The trial code sent for the step in progress (R121, R122). -/
def Search.trialCode (x : Search) : Nat :=
  if x.candidate ≤ 1023 then x.candidate else x.threshold + x.offset

/-- The levels taken at the end of a step: whether the bit is kept, and the MONLO count (R121, R122). -/
def Search.reading (x : Search) (monlo monhi : Bool) : Search :=
  let x' := { x with monlo := if monlo then x.monlo + 1 else x.monlo }
  if monhi then x'
  else if x.step ≤ 10 then { x' with threshold := x.candidate }
  else if x.candidate ≤ 1023 then { x' with offset := x.offset + 2 ^ calBit x.step }
  else x'

/-- The calibration result after step 20 (R123). -/
def Search.result (x : Search) : CalResult :=
  let w := x.threshold + x.offset
  { threshold := x.threshold, write := if w = 1023 then 1023 else w + 1,
    cause := if 0 < x.monlo ∨ x.threshold = 0 then .monitor
             else if w = 1023 then .writeLimit else .none,
    monlo := x.monlo }

/-- The result is written to the head record as the CAL record finishes (R124, R81). -/
def State.endCalibration (s : State) (r : Record) (c : CalResult) : State :=
  match c.cause with
  | .none =>
    (s.endPlan r .done none (some c)).setHeadRecord r.head
      { state := .valid, threshold := c.threshold, write := c.write, trim := 0, source := .cal,
        stamp := some s.now }
  | .monitor | .writeLimit => (s.endPlan r .calFail none (some c)).markSuspect r.head

/-- The end of a calibration step (R80, R121, R122, R123). -/
def State.calibrationStep (s : State) (r : Record) (x : Search) (monlo monhi : Bool) : State :=
  let x1 := x.reading monlo monhi
  if 20 ≤ x.step then s.endCalibration r x1.result
  else
    let x2 := { x1 with step := x.step + 1 }
    let s1 := { s with search := some x2 }
    let s2 := if x2.step = 11 then s1.setReferences 0 s.config.writeReference else s1
    s2.setLaser (.on r.head x2.trialCode)

/-! ### Deadlines (sections 4.3 and 4.4) -/

/-- The earlier of plan start + late_tol and window end − the tail allowance in use (R73). -/
def writeStartDeadlineOf (c : Configuration) (r : Record) (p : Profile) : Time :=
  timeEarlier (timePlus r.planStart c.lateTol) (timeMinus r.windowEnd p.tailAllowance)

/-- The write deadline: window end − the tail allowance in use (R76). -/
def writeDeadlineOf (r : Record) (p : Profile) : Time := timeMinus r.windowEnd p.tailAllowance

/-- The transmit deadline: window start − 512 (R46). -/
def transmitDeadlineOf (r : Record) : Time := timeMinus r.windowStart Config.minLead

/-- The end of the calibration step in progress (R80). -/
def calStepEndOf (c : Configuration) (r : Record) (x : Search) : Time :=
  timePlus r.windowStart (x.step * calStepLength c)

/-- When the window of a GRANTED record opens: for a WRITE record at plan start − the lead in use, none where
the active bank holds no profile for the zone (R66, R68, log 35); for a CAL record at the window start (R79). -/
def State.openingOf (s : State) (r : Record) : Option Time :=
  match r.state, r.kind with
  | .granted, .write => (s.store.activeBank.profile r.zone).map (fun p => timeMinus r.planStart p.lead)
  | .granted, .cal => some r.windowStart
  | _, _ => none

/-- No GRANTED record's window opens before the time: windows that one pulse has passed open in the order of
their times (R4, log 25). -/
def State.opensFirst (s : State) (t : Time) : Bool :=
  s.plans.records.all (fun r => (s.openingOf r).all (fun u => !timeBefore u t))

end Sys2Proof.Machine
end

