-- ==== Sys2Proof/Machine/ShareTable.lean ====
section
/-! DEFINITION. The Share Table and admission (chapter 2), as functions on the table alone. -/

namespace Sys2Proof.Machine

/-- The entry's window contains the instant t (R7). -/
def Entry.contains (e : Entry) (t : Time) : Bool := windowContains e.windowStart e.windowEnd t

/-- The load of the table at an instant: the sum of the levels of the entries whose windows contain it
(R18). -/
def loadAt (table : List Entry) (t : Time) : Nat :=
  ((table.filter (fun e => e.contains t)).map Entry.level).sum

/-- Purge: every entry whose window end is at or before the stamp is removed (R20). -/
def purge (table : List Entry) (stamp : Time) : List Entry :=
  table.filter (fun e => timeAfter e.windowEnd stamp)

/-- The entry of a station with a claim number (R15). -/
def findEntry (table : List Entry) (n : Station) (number : Nat) : Option Entry :=
  table.find? (fun e => e.station == n && e.number == number)

/-- The points of a window at which its greatest load can occur: its start, and the starts of entries that
lie inside it (section 2.3). -/
def loadPoints (table : List Entry) (ws we : Time) : List Time :=
  ws :: (table.map Entry.windowStart).filter (fun t => windowContains ws we t)

/-- The load plus the level stays within B_total over the window, evaluated at the points of section 2.3
(R18, R22). -/
def fitsBudget (table : List Entry) (bTotal : Nat) (ws we : Time) (level : Nat) : Bool :=
  (loadPoints table ws we).all (fun t => decide (loadAt table t + level ≤ bTotal))

/-- The plan kind of a kind byte (Table 11-1). -/
def kindOfByte (k : Byte) : Option PlanKind :=
  if k = 0 then some .write else if k = 1 then some .cal else none

/-- The span lies in 1..3584 (R14, R21, R34). -/
def spanAllowed (ws we : Time) : Bool :=
  decide (1 ≤ timeDiff we ws) && decide (timeDiff we ws ≤ (Config.maxSpan : Int))

/-- A CLAIM has a protocol error (R21). -/
def claimError (table : List Entry) (n : Station) (stamp : Time) (number kind : Byte) (ws we : Time)
    (level : Byte) : Bool :=
  (findEntry table n number.toNat).isSome
  || decide (15 < number.toNat)
  || (kindOfByte kind).isNone
  || decide (level = 0)
  || timeBefore ws (timePlus stamp Config.minLead)
  || timeAfter ws (timePlus stamp Config.horizon)
  || !spanAllowed ws we

/-- What the Share Table answers to a CLAIM (R21, R22). -/
inductive Verdict where
  | admitted
  | denied
  | protocolError
  deriving DecidableEq, Repr

/-- Admission of a CLAIM against the purged table: the verdict and the table after it (R21, R22). -/
def admission (table : List Entry) (bTotal : Nat) (n : Station) (stamp : Time) (number kind : Byte)
    (ws we : Time) (level : Byte) : Verdict × List Entry :=
  if claimError table n stamp number kind ws we level then (.protocolError, table)
  else if decide (table.length < Config.tableCapacity) && fitsBudget table bTotal ws we level.toNat then
    (.admitted, table ++ [{ station := n, number := number.toNat, windowStart := ws, windowEnd := we,
                            level := level.toNat, kind := (kindOfByte kind).getD .write,
                            origin := .admitted }])
  else (.denied, table)

/-- A RELEASE has a protocol error (R24). -/
def releaseError (stamp : Time) (number : Byte) (releaseStamp : Time) : Bool :=
  decide (15 < number.toNat) || timeAfter releaseStamp (timePlus stamp Config.horizon)

/-- Application of a RELEASE to the table: the sender's entry is removed or shortened (Table 2-4). -/
def applyRelease (table : List Entry) (n : Station) (number : Nat) (releaseStamp : Time) : List Entry :=
  table.filterMap (fun e =>
    if e.station = n ∧ e.number = number then
      if timeAtOrBefore releaseStamp e.windowStart then none
      else some { e with windowEnd := timeEarlier e.windowEnd releaseStamp }
    else some e)

/-- Removal of every entry of a station (R26). -/
def removeStation (table : List Entry) (n : Station) : List Entry :=
  table.filter (fun e => decide (e.station ≠ n))

/-- Removal of every entry that is not a station's (R27). -/
def keepStation (table : List Entry) (n : Station) : List Entry :=
  table.filter (fun e => decide (e.station = n))

/-- Insert an element before the first element it precedes. -/
def insertBy {α : Type} (before : α → α → Bool) (x : α) : List α → List α
  | [] => [x]
  | y :: ys => if before x y then x :: y :: ys else y :: insertBy before x ys

/-- Insertion sort, stable. -/
def sortBy {α : Type} (before : α → α → Bool) : List α → List α
  | [] => []
  | x :: xs => insertBy (fun a b => !before b a) x (sortBy before xs)

/-- Listing order: window start, then station number, then claim number (R15). -/
def listedBefore (a b : Entry) : Bool :=
  if a.windowStart = b.windowStart then
    if a.station = b.station then decide (a.number < b.number) else decide (a.station < b.station)
  else timeBefore a.windowStart b.windowStart

/-- The table in listing order (R15). -/
def listing (table : List Entry) : List Entry := sortBy listedBefore table

/-- The candidate starts of a hint, nearest first: the requested start and the window ends after it
(R28). -/
def hintCandidates (table : List Entry) (ws : Time) : List Time :=
  sortBy (fun a b => decide (timeDiff a ws < timeDiff b ws))
    (ws :: ((listing table).map Entry.windowEnd).filter (fun t => timeAfter t ws))

/-- The hint of a denied claim: the first candidate that fits and is at or before now + 8192 (R28). -/
def hintFor (table : List Entry) (bTotal : Nat) (now ws we : Time) (level : Nat) : Option Time :=
  (hintCandidates table ws).find? (fun c =>
    decide (table.length < Config.tableCapacity)
    && fitsBudget table bTotal c (c + (we - ws)) level
    && timeAtOrBefore c (timePlus now Config.horizon))

/-- The term of one entry in the digest (R30, step 1). -/
def Entry.digestTerm (e : Entry) : Nat :=
  (e.station.toNat * 4096 + e.number * 256 + e.level) + e.windowStart.toNat % 65536
    + e.windowEnd.toNat % 65536

/-- The digest of a table (R30). -/
def digest (table : List Entry) : BitVec 16 := BitVec.ofNat 16 ((table.map Entry.digestTerm).sum)

/-- A station's own live claims at a time (R32). -/
def ownLiveClaims (table : List Entry) (own : Station) (now : Time) : List Entry :=
  table.filter (fun e => decide (e.station = own) && timeAfter e.windowEnd now)

/-- One announced entry passes the tests of R34. -/
def announceAllowed (table : List Entry) (bTotal : Nat) (n : Station) (a : AnnounceEntry) : Bool :=
  (findEntry table n a.number.toNat).isNone
  && decide (a.number.toNat ≤ 15) && (kindOfByte a.kind).isSome && decide (a.level ≠ 0)
  && spanAllowed a.windowStart a.windowEnd
  && decide (table.length < Config.tableCapacity)
  && fitsBudget table bTotal a.windowStart a.windowEnd a.level.toNat

/-- The entry an announcement inserts (R34). -/
def announcedEntry (n : Station) (a : AnnounceEntry) : Entry :=
  { station := n, number := a.number.toNat, windowStart := a.windowStart, windowEnd := a.windowEnd,
    level := a.level.toNat, kind := (kindOfByte a.kind).getD .write, origin := .announced }

/-- Insertion of an ANNOUNCE at a requester, entry by entry: the table, and whether every entry was
inserted (R34). -/
def insertAnnounced (bTotal : Nat) (n : Station) : List Entry → List AnnounceEntry → List Entry × Bool
  | table, [] => (table, true)
  | table, a :: rest =>
    if announceAllowed table bTotal n a then
      insertAnnounced bTotal n (table ++ [announcedEntry n a]) rest
    else (table, false)

/-- An announced entry matches the table's (R33). -/
def announceMatches (table : List Entry) (n : Station) (a : AnnounceEntry) : Bool :=
  match findEntry table n a.number.toNat with
  | none => false
  | some e => decide (e.windowStart = a.windowStart) && decide (e.windowEnd = a.windowEnd)
      && decide (e.level = a.level.toNat) && decide (kindOfByte a.kind = some e.kind)

end Sys2Proof.Machine
end

