-- ==== Sys2Proof/Machine/LinkController.lean ====
section
/-! DEFINITION. The Link Controller (chapter 8): access to the line, the frame in progress, collisions, the
ANNOUNCE batch; and what the Plan Queue does at the start, the loopback and the collision of its frames
(sections 3.5 and 3.6). -/

namespace Sys2Proof.Machine

/-! ### Line access -/

/-- The wait of a station in idle bit times: the access wait, or the post-send wait (R132). -/
def State.lineWait (s : State) : Nat := if s.link.postSend then 72 else 32 + 4 * s.number.toNat

/-- A CLAIM may start only while its window start is at least 512 after the stamp (R9, R133). -/
def leadKept (now ws : Time) : Bool := decide ((Config.minLead : Int) ≤ timeDiff ws now)

/-- An entry of the transmit queue is eligible (Table 8-4, R133). -/
def State.eligible (s : State) (e : TxEntry) : Bool :=
  match s.station with
  | .setup | .listen | .halted => false
  | .joining => match e with
    | .claim _ _ ws _ _ => leadKept s.now ws
    | .release _ _ | .beacon | .join | .syncRequest | .syncDone | .announce _ _ => true
  | .active => match e with
    | .claim _ _ ws _ _ => decide (s.peers.sync = .inSync) && s.peers.quiet.isNone && leadKept s.now ws
    | .release _ _ | .beacon | .join | .syncRequest | .syncDone | .announce _ _ => true

/-- The frames of an ANNOUNCE batch (Table 8-5). -/
def batchFrames (claims : List Entry) : List (List Entry) :=
  if claims.length ≤ 3 then [claims]
  else if claims.length ≤ 6 then [claims.take 3, claims.drop 3]
  else [claims.take 3, (claims.drop 3).take 3, claims.drop 6]

/-- The entry as it stands once it has started: a batch not yet built is built from the own live claims in
listing order (R141, R32). -/
def State.startedEntry (s : State) (e : TxEntry) : TxEntry :=
  match e with
  | .announce none again =>
    .announce (some (batchFrames (listing (ownLiveClaims s.table s.number s.now)))) again
  | e => e

/-- The digest the station sends: of its table as it would stand after purging at the stamp (R31). -/
def State.sentDigest (s : State) : BitVec 16 := digest (purge s.table s.now)

/-- The content of a frame, fixed at its start (R133). -/
def State.frameContent (s : State) (e : TxEntry) : LinkFrame :=
  match e with
  | .claim n k ws we l => .claim s.now n k ws we l
  | .release n x => .release s.now n x
  | .beacon => .beacon s.now s.sentDigest (ownLiveClaims s.table s.number s.now).length s.peers.sync
  | .join => .join s.now Config.unitCode
  | .syncRequest => .syncRequest
  | .syncDone => .syncDone s.now s.sentDigest
  | .announce frames _ =>
    let fs := frames.getD []
    .announce (decide (fs.length ≤ 1)) (fs.headD [])

/-- A record becomes CLAIMING as its CLAIM starts (R45). -/
def PlanQueue.startClaim (q : PlanQueue) (e : TxEntry) : PlanQueue :=
  match e with
  | .claim n _ _ _ _ =>
    { q with records := q.records.map (fun r =>
        if r.state = .queued ∧ r.claim = n then { r with state := .claiming } else r) }
  | _ => q

/-- A frame starts: its entry moves to the head of the queue and is on the line, with its content fixed
(R133). -/
def State.startFrame (s : State) (e : TxEntry) : State :=
  let e' := s.startedEntry e
  { s with
    link := { s.link with queue := e' :: s.link.queue.erase e,
                          onLine := some { frame := s.frameContent e', discard := false }, bit := 0,
                          receiver := .idle, assembly := [], postSend := false, idleCount := 0 },
    plans := s.plans.startClaim e }

/-- The station can start a frame: its wait has ended on the idle line and no frame is in progress or
being received (R132). -/
def State.mayStart (s : State) (idle : Nat) : Bool :=
  s.pins.rstn && decide (s.link.onLine = none) && decide (s.link.receiver ≠ .receiving)
  && decide (s.lineWait ≤ idle)

/-! ### Completion -/

/-- The queue after the frame of its head has completed: the entry leaves; of a batch the frame leaves, and
after the final one a batch marked for repeat stays to be built afresh (R133, R141). -/
def afterSent : List TxEntry → List TxEntry
  | .announce (some (_ :: f :: fs)) again :: q => .announce (some (f :: fs)) again :: q
  | .announce _ true :: q => .announce none false :: q
  | _ :: q => q
  | [] => []

/-- The line after the station's own frame has ended (R132, R133). -/
def Link.frameEnded (l : Link) : Link := { l with onLine := none, postSend := true, idleCount := 0 }

/-- The link after a frame of the station's own has completed (R133, R142). -/
def Link.completed (l : Link) (discard : Bool) : Link :=
  { l.frameEnded with collisions := 0, collided := none,
                      queue := if discard then l.queue else afterSent l.queue }

/-! ### The Plan Queue at its frames -/

/-- A WRITE record's zone is now fenced (R45, R47). -/
def State.nowFenced (s : State) (r : Record) : Bool :=
  decide (r.kind = .write) && s.restrictions.fence.covers r.zone

/-- A WRITE record's head is now SUSPECT (R45, R47). -/
def State.nowSuspect (s : State) (r : Record) : Bool :=
  decide (r.kind = .write) && decide ((s.headRecord r.head).state = .suspect)

/-- The CLAIMING record that holds a claim number (R23). -/
def PlanQueue.claiming (q : PlanQueue) (n : Nat) : Option Record :=
  q.records.find? (fun r => decide (r.state = .claiming) && decide (r.claim = n))

/-- The record at the loopback of its CLAIM (Table 3-7). -/
def State.claimVerdict (s : State) (r : Record) (v : Verdict) (hint : Option Time) : State :=
  let release := if v = .admitted then some r.windowStart else none
  if r.cancel.isSome then s.finish r { outcome := .cancelled, release := release }
  else if s.nowFenced r then s.finish r { outcome := .fenced, release := release }
  else if s.nowSuspect r then s.finish r { outcome := .headSuspect, release := release }
  else match v with
    | .admitted =>
      if s.reached r.windowStart then s.finish r { outcome := .late, release := release }
      else s.updateRecord r.tag (fun x => { x with state := .granted })
    | .denied => s.finish r { outcome := .denied, hint := hint }
    | .protocolError => s.finish r { outcome := .denied }

/-- The release transmitted is handed to the record whose RELEASE it was (R25, R51). -/
def PlanQueue.releaseSent (q : PlanQueue) (n : Nat) : PlanQueue :=
  { q with records := q.records.map (fun r =>
      if r.releasePending ∧ r.claim = n then { r with releasePending := false } else r) }

/-- A CLAIMING record at the collision of its CLAIM: QUEUED again, and finished where a cancel, a fence or a
SUSPECT head stands (R45). -/
def State.claimCollided (s : State) (n : Nat) : State :=
  match s.plans.claiming n with
  | none => s
  | some r =>
    let r' := { r with state := RecordState.queued }
    let s1 := s.updateRecord r.tag (fun x => { x with state := .queued })
    if r.cancel.isSome then s1.finish r' { outcome := .cancelled }
    else if s1.nowFenced r' then s1.finish r' { outcome := .fenced }
    else if s1.nowSuspect r' then s1.finish r' { outcome := .headSuspect }
    else s1

/-- A CLAIMING record at the fourth collision: QUEUED, with no condition examined (R45, R135). -/
def State.claimReturned (s : State) (n : Nat) : State :=
  match s.plans.claiming n with
  | none => s
  | some r => s.updateRecord r.tag (fun x => { x with state := .queued })

/-! ### Halting (R85, R149, R175) -/

/-- Entry to HALTED: the laser off, WFAULT if WGATE is high, the cause written (R85, R175). -/
def State.halt (s : State) (c : FaultCause) (stamp : Time) : State :=
  { ((s.setLaser .off).assertWfault).writeFault c stamp with station := .halted }

/-! ### Collisions (R134, R135) -/

/-- The stamp of a frame; none for an unstamped kind (Table 8-2). -/
def LinkFrame.stamp : LinkFrame → Option Time
  | .join t _ | .beacon t _ _ _ | .claim t _ _ _ _ _ | .release t _ _ | .syncDone t _ => some t
  | .syncRequest | .announce _ _ => none

/-- The claim number of a CLAIM frame. -/
def LinkFrame.claimNumber : LinkFrame → Option Nat
  | .claim _ n _ _ _ _ => some n
  | .join _ _ | .beacon _ _ _ _ | .release _ _ _ | .syncDone _ _ | .syncRequest | .announce _ _ => none

/-- The link at a collision that counts (R134, R135). -/
def Link.collidedOnce (l : Link) : Link :=
  { l.frameEnded with receiver := .receiving, collisions := l.collisions + 1,
                      collided := l.queue.head?.map TxEntry.key }

/-- A frame whose loopback is to be discarded stops as a collision and is dropped (R142). -/
def Link.dropped (l : Link) : Link := { l.frameEnded with receiver := .receiving }

/-- A collision of the frame in progress (R134, R135). -/
def State.collide (s : State) (o : OnLine) : State :=
  if o.discard then { s with link := s.link.dropped }
  else
    let s1 : State := { s with link := s.link.collidedOnce }
    if 4 ≤ s1.link.collisions then
      let s2 := match o.frame.claimNumber with
        | some n => s1.claimReturned n
        | none => s1
      s2.halt .linkFault (o.frame.stamp.getD s.now)
    else match o.frame.claimNumber with
      | some n => s1.claimCollided n
      | none => s1

end Sys2Proof.Machine
end

