-- ==== Sys2Proof/Machine/PeerBlock.lean ====
section
/-! DEFINITION. The Peer Block (chapter 9): the Peer Table, LISTEN and adoption, agreement, the requester,
helpers and QUIET; the loopback of the station's own frames and the taking of peers' frames. -/

namespace Sys2Proof.Machine

/-! ### The Peer Table -/

/-- The entry of a station. -/
def PeerBlock.entry (p : PeerBlock) (n : Station) : PeerEntry :=
  p.table.getD n.toNat PeerEntry.absentEntry

/-- Replace the entry of a station. -/
def PeerBlock.setEntry (p : PeerBlock) (n : Station) (e : PeerEntry) : PeerBlock :=
  { p with table := p.table.set n.toNat e }

/-- Change the entry of a station. -/
def State.updatePeer (s : State) (n : Station) (f : PeerEntry → PeerEntry) : State :=
  { s with peers := s.peers.setEntry n (f (s.peers.entry n)) }

/-- A frame other than a JOIN from peer n makes it ACTIVE, its count 0 (R144). -/
def State.heard (s : State) (n : Station) : State :=
  s.updatePeer n (fun e => { e with state := .active, lastHeard := 0 })

/-- A BEACON or SYNC-DONE also records its digest (R144). -/
def State.heardDigest (s : State) (n : Station) (d : BitVec 16) : State :=
  s.updatePeer n (fun e => { e with state := .active, lastHeard := 0, digest := some d })

/-- A JOIN from peer n (R144). -/
def State.heardJoin (s : State) (n : Station) (unit : BitVec 32) : State :=
  s.updatePeer n (fun _ => { state := .joining, lastHeard := 0, unit := some unit, digest := none,
                             announced := false })

/-- Every announce-received flag clears (R154, R157). -/
def clearAnnounced (t : List PeerEntry) : List PeerEntry := t.map (fun e => { e with announced := false })

/-- The stations whose entries satisfy a condition, in order of number. -/
def PeerBlock.stations (p : PeerBlock) (f : PeerEntry → Bool) : List Station :=
  ((List.range 8).map (BitVec.ofNat 3)).filter (fun n => f (p.entry n))

/-- A frame from a station not in the table: its entry is ABSENT or LOST (R153, trigger 6). -/
def PeerBlock.stranger (p : PeerBlock) (n : Station) : Bool :=
  decide ((p.entry n).state = .absent) || decide ((p.entry n).state = .lost)

/-! ### LISTEN and joining (sections 9.2 and 9.3) -/

/-- Entry to LISTEN from SETUP: what R146 clears; the Peer Table stays. -/
def PeerBlock.enterListen (p : PeerBlock) : PeerBlock :=
  { p with sync := .none, requester := false, awaited := [], reRequest := false, quiet := none,
           listenPulses := 0, adopted := false, joinSent := false }

/-- The revolution field of a stamp (R5). -/
def stampRevolution (t : Time) : BitVec 8 := t.extractLsb' 12 8

/-- The first stamped frame in LISTEN after its first pulse, or in JOINING before the station's JOIN, sets
the revolution counter (R147, log 20). -/
def State.adopt (s : State) (stamp : Time) (pulse : Bool) : State :=
  let opened := (decide (s.station = .listen) && decide (1 ≤ s.peers.listenPulses))
    || (decide (s.station = .joining) && !s.peers.joinSent)
  if opened && !s.peers.adopted then
    { s with clock := { s.clock with revolution := stampRevolution stamp + (if pulse then 1 else 0) },
             peers := { s.peers with adopted := true } }
  else s

/-- Entry to JOINING at the second pulse of LISTEN (R148, R150). -/
def State.enterJoining (s : State) : State :=
  { s with
    clock := { s.clock with revolution := if s.peers.adopted then s.clock.revolution else 0 },
    station := .joining, peers := { s.peers with sync := .desync },
    link := s.link.enqueueRequest .join }

/-! ### Agreement and resynchronisation (sections 9.4 and 9.5) -/

/-- Entry to DESYNC (R153). -/
def State.enterDesync (s : State) : State :=
  { s with peers := { s.peers with sync := .desync }, link := s.link.enqueueRequest .syncRequest }

/-- An IN_SYNC station enters DESYNC where a trigger is taken (R153). -/
def State.desyncIf (s : State) (trigger : Bool) : State :=
  if trigger && decide (s.peers.sync = .inSync) then s.enterDesync else s

/-- The requester abandons its resynchronisation (R157, R27). -/
def State.abandon (s : State) : State :=
  { s with
    table := keepStation s.table s.number,
    peers := { s.peers with sync := .desync, requester := false, awaited := [],
                            table := clearAnnounced s.peers.table, reRequest := true },
    link := s.link.withdraw .syncDone }

/-- A frame error or a protocol error at the Peer Block (Table 9-3). -/
def State.errorTaken (s : State) : State :=
  if s.peers.requester then s.abandon else s.desyncIf true

/-- Every awaited peer has completed its announcements: the SYNC-DONE is queued (R155). -/
def State.completeIfCollected (s : State) : State :=
  if s.peers.requester && s.peers.awaited.all (fun n => (s.peers.entry n).announced) then
    { s with link := s.link.enqueueOnce .syncDone }
  else s

/-- A peer is dropped from the awaited set, and the completion test is made (R151, R155). -/
def State.dropAwaited (s : State) (n : Station) : State :=
  if s.peers.requester && s.peers.awaited.contains n then
    State.completeIfCollected
      { s with peers := { s.peers with awaited := s.peers.awaited.filter (fun m => m != n) } }
  else s

/-- The station becomes a requester (R154, R27). -/
def State.becomeRequester (s : State) : State :=
  let awaited := s.peers.stations (fun e => decide (e.state = .active))
  State.completeIfCollected
    { s with
      table := keepStation s.table s.number,
      peers := { s.peers with sync := .resyncing, requester := true,
                              table := clearAnnounced s.peers.table, awaited := awaited,
                              requesterPulses := 0, reRequest := false } }

/-- The requester ends its resynchronisation at the loopback of its SYNC-DONE (R156). -/
def State.endResync (s : State) : State :=
  { s with station := if s.station = .joining then .active else s.station,
           peers := { s.peers with sync := .inSync, requester := false, awaited := [] } }

/-! ### Helping (section 9.6) -/

/-- An ANNOUNCE batch is requested: it joins the queue; one that is waiting serves; one that has started is
marked for repeat (R141). -/
def Link.requestBatch (l : Link) : Link :=
  if l.holds .announce then
    { l with queue := l.queue.map (fun e => match e with
        | .announce (some fs) _ => .announce (some fs) true
        | e => e) }
  else l.enqueue (.announce none false)

/-- An ACTIVE station helps peer n: a batch, and QUIET with helped station n (R158). -/
def State.help (s : State) (n : Station) : State :=
  if s.station = .active then
    { s with link := s.link.requestBatch,
             peers := { s.peers with quiet := some n, quietPulses := 0 } }
  else s

/-! ### INDEX pulses in the Peer Block (R145, R148, R152, R157, R159) -/

/-- The last-heard count of an entry at a pulse; at 4 the entry is LOST (R145). -/
def PeerEntry.pulse (e : PeerEntry) : PeerEntry :=
  if e.state = .joining ∨ e.state = .active then
    if 4 ≤ e.lastHeard + 1 then { e with state := .lost, lastHeard := 4 }
    else { e with lastHeard := e.lastHeard + 1 }
  else e

/-- The LOST counts, and the drop of LOST peers from the awaited set (R145). -/
def State.pulseLost (s : State) : State :=
  let p := { s.peers with table := s.peers.table.map PeerEntry.pulse }
  let awaited := p.awaited.filter (fun n => decide ((p.entry n).state ≠ .lost))
  let s1 : State := { s with peers := { p with awaited := awaited } }
  if awaited = p.awaited then s1 else s1.completeIfCollected

/-- The LISTEN pulse count; the second pulse ends LISTEN (R148). -/
def State.pulseListen (s : State) : State :=
  if s.station = .listen then
    let s1 : State := { s with peers := { s.peers with listenPulses := s.peers.listenPulses + 1 } }
    if 2 ≤ s1.peers.listenPulses then s1.enterJoining else s1
  else s

/-- The QUIET pulse count; at 2 QUIET clears (R159). -/
def State.pulseQuiet (s : State) : State :=
  if s.peers.quiet.isSome then
    if 2 ≤ s.peers.quietPulses + 1 then
      { s with peers := { s.peers with quiet := none, quietPulses := 2 } }
    else { s with peers := { s.peers with quietPulses := s.peers.quietPulses + 1 } }
  else s

/-- The pending re-request: a SYNC-REQUEST of an ACTIVE station, a JOIN of a JOINING one (R157). -/
def State.pulseReRequest (s : State) : State :=
  if s.peers.reRequest then
    { s with peers := { s.peers with reRequest := false },
             link := s.link.enqueueRequest (if s.station = .joining then .join else .syncRequest) }
  else s

/-- The SYNC-DONE has started on the line (R157). -/
def State.syncDoneStarted (s : State) : Bool :=
  match s.link.onLine with
  | some { frame := .syncDone _ _, discard := _ } => true
  | _ => false

/-- The requester pulse count; the second pulse abandons, unless the SYNC-DONE has started (R157, log
24). -/
def State.pulseRequester (s : State) : State :=
  if s.peers.requester then
    let s1 : State :=
      { s with peers := { s.peers with requesterPulses := min (s.peers.requesterPulses + 1) 2 } }
    if 2 ≤ s1.peers.requesterPulses ∧ ¬ s1.syncDoneStarted then s1.abandon else s1
  else s

/-- A pulse as the Peer Block takes it, in LISTEN, JOINING and ACTIVE (R2, R145, R152; order: log 26). -/
def State.peerPulse (s : State) : State :=
  if s.readsLine then
    let s1 := s.pulseLost.pulseListen.pulseQuiet.pulseReRequest.pulseRequester
    if s.station = .active then { s1 with link := s1.link.enqueueOnce .beacon } else s1
  else s

/-- One INDEX pulse: the clock, then the Peer Block (R2). A swap that is due comes before the pulse, since it
is resolved at the first moment with no plan executing (R108). Every deadline that the pulse reaches, one at its
very time included, is an event of its own, taken after what the pulse hands to the Peer Block (R4, log 39). -/
def State.takePulse (s : State) (interval : Nat) : State :=
  if s.pins.rstn then State.peerPulse { s.resolveDueSwap with clock := s.clock.pulse interval } else s

/-! ### The loopback of the station's own frames (R138) -/

/-- The byte of a plan kind (Table 11-1). -/
def kindByte : PlanKind → Byte
  | .write => 0
  | .cal => 1

/-- The loopback of an own CLAIM (R23, R47, R21). -/
def State.loopClaim (s : State) (stamp : Time) (n : Nat) (k : PlanKind) (ws we : Time) (level : Nat) :
    State :=
  let a := admission (purge s.table stamp) s.config.bTotal s.number stamp (BitVec.ofNat 8 n) (kindByte k)
    ws we (BitVec.ofNat 8 level)
  let s1 : State := { s with table := a.2 }
  let hint := if a.1 = .denied then hintFor a.2 s.config.bTotal s.now ws we level else none
  let s2 := match s1.plans.claiming n with
    | some r => s1.claimVerdict r a.1 hint
    | none => s1
  if a.1 = .protocolError then s2.errorTaken else s2

/-- The loopback of an own RELEASE (R24, R25). -/
def State.loopRelease (s : State) (stamp : Time) (n : Nat) (x : Time) : State :=
  let t := purge s.table stamp
  let bad := releaseError stamp (BitVec.ofNat 8 n) x
  let s1 : State := { s with table := if bad then t else applyRelease t s.number n x,
                             plans := s.plans.releaseSent n }
  if bad then s1.errorTaken else s1

/-- The loopback of an own frame, taken in JOINING and ACTIVE (R138, Table 2-3). -/
def State.loopback (s : State) (f : LinkFrame) : State :=
  if s.takesFrames then
    match f with
    | .claim t n k ws we l => s.loopClaim t n k ws we l
    | .release t n x => s.loopRelease t n x
    | .beacon t _ _ _ => { s with table := purge s.table t }
    | .join t _ =>
      let s1 : State := { s with table := removeStation (purge s.table t) s.number,
                                 peers := { s.peers with joinSent := true } }
      if s1.station = .joining then s1.becomeRequester else s1
    | .syncRequest =>
      if s.station = .active ∧ s.peers.sync = .desync then s.becomeRequester else s
    | .announce _ _ => s
    | .syncDone t _ =>
      let s1 : State := { s with table := purge s.table t }
      if s1.peers.requester then s1.endResync else s1
  else s

/-- The station's own frame completes and is looped back, unless its loopback is discarded (R133, R138,
R142). -/
def State.complete (s : State) (o : OnLine) : State :=
  let s1 : State := { s with link := s.link.completed o.discard }
  if o.discard then s1 else s1.loopback o.frame

/-! ### Reception (R136, R144) -/

/-- A frame of another unit can end on the line and be taken: the receiver reads and does not discard, and
no frame of the station's own is on the line (R136, R137, log 9). -/
def State.receives (s : State) : Bool :=
  s.pins.rstn && s.readsLine && decide (s.link.onLine = none)
  && decide (s.link.receiver ≠ .waitingIdle) && decide (s.link.receiver ≠ .discarding)

/-- The line after a frame of another unit has ended: the post-send condition clears (R132). -/
def Link.frameTaken (l : Link) : Link :=
  { l with receiver := .idle, assembly := [], postSend := false, idleCount := 0 }

/-- A low level of another unit that is not taken as a frame, while the receiver waits or discards: it ends
the idle count and clears the post-send condition (R128, R132). -/
def State.foreignLevel (s : State) : State :=
  if s.pins.rstn && s.readsLine && decide (s.link.onLine = none) then
    { s with link := { s.link with postSend := false, idleCount := 0 } }
  else s

/-- A frame that bears the station's own number: HALTED in LISTEN and JOINING (R149), CLASH_SEEN in ACTIVE
(R160). -/
def State.ownNumberFrame (s : State) (stamp : Time) : State :=
  if s.station = .active then s.writeFault .clashSeen stamp else s.halt .idClash stamp

/-- A received frame is accepted: an own-number frame is a clash, a peer's frame is taken by `act` (R136,
R144). A frame that the receiver does not take is a level on the line (R132). -/
def State.takeFrame (s : State) (n : Station) (stamp : Option Time) (act : State → State) : State :=
  if s.receives then
    let s1 : State := { s with link := s.link.frameTaken }
    if n = s1.number then s1.ownNumberFrame (stamp.getD s1.now) else act s1
  else s.foreignLevel

/-- The Share Table purges at the stamp of a frame it takes (R20). -/
def State.purgeAt (s : State) (stamp : Time) : State :=
  if s.takesFrames then { s with table := purge s.table stamp } else s

/-- A JOIN from peer n (R26, R144, R147, R151, R158). -/
def State.peerJoin (s : State) (n : Station) (stamp : Time) (unit : BitVec 32) (pulse : Bool) : State :=
  let s1 : State :=
    if s.takesFrames then { s with table := removeStation (purge s.table stamp) n } else s
  (((s1.adopt stamp pulse).dropAwaited n).heardJoin n unit).help n

/-- A BEACON disagrees with the receiver's table (R153, trigger 3): it reports IN_SYNC, and its digest or
its count of own live claims differs. -/
def beaconDisagrees (table : List Entry) (n : Station) (d : BitVec 16) (claims sync : Byte) : Bool :=
  decide (sync = 1) && (decide (d ≠ digest table)
    || decide (claims.toNat ≠ (table.filter (fun e => decide (e.station = n))).length))

/-- A BEACON from peer n (R20, R144, R147, R153). -/
def State.peerBeacon (s : State) (n : Station) (stamp : Time) (d : BitVec 16) (claims sync : Byte)
    (pulse : Bool) : State :=
  let s1 := (s.purgeAt stamp).adopt stamp pulse
  (s1.desyncIf (beaconDisagrees s1.table n d claims sync || s1.peers.stranger n)).heardDigest n d

/-- A CLAIM from peer n (R20 to R22, R144, R147, R153). -/
def State.peerClaim (s : State) (n : Station) (stamp : Time) (number kind : Byte) (ws we : Time)
    (level : Byte) (pulse : Bool) : State :=
  let s0 := s.adopt stamp pulse
  let s1 :=
    if s0.takesFrames then
      let a := admission (purge s0.table stamp) s0.config.bTotal n stamp number kind ws we level
      let s' : State := { s0 with table := a.2 }
      if a.1 = .protocolError then s'.errorTaken else s'
    else s0
  (s1.desyncIf (s.peers.stranger n)).heard n

/-- A RELEASE from peer n (R20, R24, R144, R147, R153). -/
def State.peerRelease (s : State) (n : Station) (stamp : Time) (number : Byte) (x : Time) (pulse : Bool) :
    State :=
  let s0 := s.adopt stamp pulse
  let s1 :=
    if s0.takesFrames then
      let t := purge s0.table stamp
      if releaseError stamp number x then State.errorTaken { s0 with table := t }
      else { s0 with table := applyRelease t n number.toNat x }
    else s0
  (s1.desyncIf (s.peers.stranger n)).heard n

/-- A SYNC-REQUEST from peer n (R144, R153, R158). -/
def State.peerSyncRequest (s : State) (n : Station) : State :=
  ((s.desyncIf (s.peers.stranger n)).heard n).help n

/-- An ANNOUNCE from peer n: inserted at a requester, compared otherwise (R33, R34, R144, R153, R155). -/
def State.peerAnnounce (s : State) (n : Station) (final : Byte) (entries : List AnnounceEntry) : State :=
  if s.peers.requester then
    let i := insertAnnounced s.config.bTotal n s.table entries
    let s1 : State := { s with table := i.1 }
    if i.2 then
      let s2 := s1.heard n
      if final = 0 then s2
      else State.completeIfCollected (s2.updatePeer n (fun e => { e with announced := true }))
    else s1.abandon.heard n
  else
    let differs := s.takesFrames && !entries.all (announceMatches s.table n)
    (s.desyncIf (differs || s.peers.stranger n)).heard n

/-- A SYNC-DONE from peer n (R20, R144, R147, R153, R159). -/
def State.peerSyncDone (s : State) (n : Station) (stamp : Time) (d : BitVec 16) (pulse : Bool) : State :=
  let s1 := (s.purgeAt stamp).adopt stamp pulse
  let s2 := (s1.desyncIf (decide (d ≠ digest s1.table) || s1.peers.stranger n)).heardDigest n d
  if s2.peers.quiet = some n then { s2 with peers := { s2.peers with quiet := none } }
  else s2

/-- A frame error: the receiver discards until the line is idle, and the Peer Block takes the error (R137,
Table 9-3, log 31). The idle count stands as the levels of the line have left it (R128, log 10). -/
def State.frameError (s : State) (foreignLow : Bool) : State :=
  let keep := s.link.postSend && decide (s.link.receiver = .receiving) && !foreignLow
  let s1 : State :=
    { s with link := { s.link with receiver := .discarding, assembly := [], postSend := keep } }
  s1.errorTaken

end Sys2Proof.Machine
end

