-- ==== Sys2Proof/Machine/Port.lean ====
section
/-! DEFINITION. The plan port at its pins' bytes (sections 10.1 and 11.3): the command a transaction
carries, and the bytes a reply shifts out. The interface of the channel: it queues commands. -/

namespace Sys2Proof.Machine

/-! ### What PDI carries -/

/-- The byte of eight bits, most significant bit first (R162). -/
def byteOfBits (b7 b6 b5 b4 b3 b2 b1 b0 : Bool) : Byte :=
  BitVec.ofNat 8 (bitsNat [b0, b1, b2, b3, b4, b5, b6, b7])

/-- The whole bytes of a transaction; a partial byte at the rise of PCS is discarded (R162). -/
def pdiBytes : List Bool → List Byte
  | b7 :: b6 :: b5 :: b4 :: b3 :: b2 :: b1 :: b0 :: rest =>
    byteOfBits b7 b6 b5 b4 b3 b2 b1 b0 :: pdiBytes rest
  | _ => []

/-- What a transaction carries (R162, R163). -/
inductive Envelope where
  | noRequest
  | unsound
  | sound (kind : Byte) (payload : List Byte) (more : Bool)
  deriving DecidableEq, Repr

/-- The bytes of a frame sum to 0 modulo 256. -/
def sumsToZero (bytes : List Byte) : Bool := decide ((bytes.map BitVec.toNat).sum % 256 = 0)

/-- The body of a request after its lead and LEN bytes: sound, or not (R163). -/
def envelopeBody (len : Byte) (body : List Byte) : Envelope :=
  let n := len.toNat
  let kind := body.getD 0 0
  let trailer := body.getD (n + 1) 0
  if 1 ≤ n ∧ n ≤ 65 ∧ n + 2 ≤ body.length ∧ sumsToZero (len :: body.take (n + 1))
      ∧ (trailer = 0x17 ∨ (trailer = 0x1F ∧ kind = 0x21)) then
    .sound kind ((body.take n).drop 1) (decide (trailer = 0x1F))
  else .unsound

/-- What the bytes of a transaction carry (R162, R163). -/
def envelopeOf : List Byte → Envelope
  | [] => .noRequest
  | lead :: rest =>
    if lead = 0xFF then .noRequest
    else if lead = 0x51 then
      match rest with
      | [] => .unsound
      | len :: body => envelopeBody len body
    else .unsound

/-- The command of a sound request, by its KIND (Table 10-9, R164). -/
def requestOf (kind : Byte) (p : List Byte) (more : Bool) : Instr :=
  match kind.toNat with
  | 0x10 => .configure p
  | 0x11 => .start p
  | 0x20 => .load p
  | 0x21 => .data p more
  | 0x22 => .swap p
  | 0x30 => .setHead p
  | 0x31 => .readHead p
  | 0x32 => .calibrate p
  | 0x40 => .post p
  | 0x41 => .cancel p
  | 0x42 => .query p
  | 0x43 => .collect p
  | 0x50 => .status p
  | 0x51 => .identify p
  | 0x52 => .withdraw p
  | 0x5F => .restart p
  | _ => .unknownKind kind p

/-- The command of a transaction; none where it carries no request (R162 to R164). -/
def commandOf (bytes : List Byte) : Option Instr :=
  match envelopeOf bytes with
  | .noRequest => none
  | .unsound => some .planPortFrameError
  | .sound kind p more => some (requestOf kind p more)

/-- One transaction from the fall of PCS to its rise: its command joins the queue (R162). -/
def State.transaction (s : State) (pdi : List Bool) : State :=
  { s with pending := s.pending ++ (commandOf (pdiBytes pdi)).toList }

/-! ### What PDO carries -/

/-- The byte that makes a sum 0 modulo 256. -/
def checkByte (bytes : List Byte) : Byte := BitVec.ofNat 8 (256 - (bytes.map BitVec.toNat).sum % 256)

/-- The bytes of a reply (R164, Table 11-4). -/
def Reply.bytes (r : Reply) : List Byte :=
  let body := byte1 (2 + r.payload.length) ++ [r.kind] ++ byte1 (resultCode r.result) ++ r.payload
  [0x52#8] ++ body ++ [checkByte body] ++ [0x17#8]

/-- The first n bytes that PDO carries in a transaction: the held reply, and 0xFF after its trailer (R162);
undriven while PCS is high (R162) or RSTn is low (R174). -/
def State.pdo (s : State) (pcs : Bool) (n : Nat) : Option (List Byte) :=
  if s.pins.rstn && !pcs then
    some ((((s.reply.map Reply.bytes).getD []) ++ List.replicate n 0xFF#8).take n)
  else none

/-- The eight bits of a byte in the order they are shifted, most significant bit first (R162). -/
def shiftBits (x : Byte) : List Bool := (List.range 8).map (fun i => x.getLsbD (7 - i))

/-- The levels PDO takes over the first n bytes of a transaction, one for each falling edge of PCLK (R162);
none while it is undriven. -/
def State.pdoLevels (s : State) (pcs : Bool) (n : Nat) : Option (List Bool) :=
  (s.pdo pcs n).map (fun bytes => bytes.flatMap shiftBits)

end Sys2Proof.Machine
end

