-- ==== Sys2Proof/Machine/Line.lean ====
section
/-! DEFINITION. The Share Link at its bytes and bits (sections 8.1, 8.2, 8.5 and 11.2): the bytes and bits
the station's frames put on the line, and the command the bytes of a received frame spell. -/

namespace Sys2Proof.Machine

/-! ### What the station sends -/

/-- The KIND codes of Table 8-2. -/
def LinkFrame.kindCode : LinkFrame → Byte
  | .join _ _ => 0x01
  | .beacon _ _ _ _ => 0x02
  | .claim _ _ _ _ _ _ => 0x03
  | .release _ _ _ => 0x04
  | .syncRequest => 0x05
  | .announce _ _ => 0x06
  | .syncDone _ _ => 0x07

/-- One claim entry of an ANNOUNCE (Table 11-3). -/
def announceBytes (e : Entry) : List Byte :=
  byte1 e.number ++ [kindByte e.kind] ++ timeBytes e.windowStart ++ timeBytes e.windowEnd ++ byte1 e.level

/-- The payload of a link frame (Table 11-3). -/
def LinkFrame.payload : LinkFrame → List Byte
  | .join t u => timeBytes t ++ byte4 u.toNat ++ [Config.revision]
  | .beacon t d n y => timeBytes t ++ byte2 d.toNat ++ byte1 n ++ byte1 (syncCode y)
  | .claim t n k ws we l =>
    timeBytes t ++ byte1 n ++ [kindByte k] ++ timeBytes ws ++ timeBytes we ++ byte1 l
  | .release t n x => timeBytes t ++ byte1 n ++ timeBytes x
  | .syncRequest => []
  | .announce final es => flagByte final ++ es.flatMap announceBytes
  | .syncDone t d => timeBytes t ++ byte2 d.toNat

/-- The bytes of a link frame of a station (R130, Table 11-2). -/
def LinkFrame.bytes (f : LinkFrame) (sender : Station) : List Byte :=
  let body := byte1 sender.toNat ++ [f.kindCode] ++ byte1 f.payload.length ++ f.payload
  [0x6A#8] ++ body ++ [checkByte body] ++ [0x95#8]

/-- The ten bit times of a byte: a start bit low, eight data bits least significant first, a stop bit
released (R128). True is the released, high level. -/
def lineBits (x : Byte) : List Bool := [false] ++ (List.range 8).map (fun i => x.getLsbD i) ++ [true]

/-- The bits of the frame in progress (R128, R133); none where no frame is in progress. -/
def State.frameBits (s : State) : List Bool :=
  match s.link.onLine with
  | none => []
  | some o => (o.frame.bytes s.number).flatMap lineBits

/-- The level the station gives the line in the present bit time: the bit being sent, or released (R128,
R174). -/
def State.driven (s : State) : Bool := !s.pins.rstn || s.frameBits.getD s.link.bit true

/-! ### What the receiver makes of the levels of the line -/

/-- The bit times since the last low one. -/
def highsAtEnd (bits : List Bool) : Nat := (bits.reverse.takeWhile id).length

/-- A byte ends a whole frame: it is the trailer 0x95, at the trailer's place where a frame is being assembled
(R130, R136). -/
def Link.endsFrame (l : Link) (x : Byte) : Bool :=
  decide (x = 0x95)
  && (decide (l.receiver ≠ .receiving)
    || decide (l.assembly.length = 5 + byteAt (l.assembly.map RxByte.value) 3))

/-- One bit time of the line as the receiver samples it (R128): a falling edge between bytes begins a byte;
eight data bits follow, least significant first, and the stop bit, low for a framing fault. Idle time is
counted from the stop bit of the byte that ends a frame; after any other byte with no start bit behind it, where
a frame has stopped, from the last low level (R128, log 38). Answers the byte that the bit time completes. -/
def Link.sample (l : Link) (level : Bool) : Link × Option RxByte :=
  let l' := { l with lineHigh := level }
  match l.byteBits with
  | none =>
    if level then ({ l' with idleCount := l.idleCount + 1 }, none)
    else if l.lineHigh then ({ l' with byteBits := some (l.idleCount, []), idleCount := 0 }, none)
    else ({ l' with idleCount := 0 }, none)
  | some (gap, bits) =>
    if bits.length < 8 then ({ l' with byteBits := some (gap, bits ++ [level]) }, none)
    else
      let x : Byte := BitVec.ofNat 8 (bitsNat bits)
      ({ l' with byteBits := none, idleCount := if l.endsFrame x then 0 else highsAtEnd (bits ++ [level]) },
       some { value := x, fault := !level, gap := gap })

/-- A run of bit times: the link after them, and the bytes they complete, in order (R128). -/
def Link.sampleAll (l : Link) : List Bool → Link × List RxByte
  | [] => (l, [])
  | level :: rest =>
    let one := l.sample level
    let more := one.1.sampleAll rest
    (more.1, one.2.toList ++ more.2)

/-! ### What the bytes of a frame spell -/

/-- LEN is a payload size of the kind (Table 8-2). -/
def lengthAllowed (kind : Byte) (len : Nat) : Bool :=
  match kind.toNat with
  | 1 => decide (len = 8)
  | 2 => decide (len = 7)
  | 3 => decide (len = 12)
  | 4 => decide (len = 7)
  | 5 => decide (len = 0)
  | 6 => decide (len = 1) || decide (len = 10) || decide (len = 19) || decide (len = 28)
  | 7 => decide (len = 5)
  | _ => false

/-- A check of R136 fails at byte i of a frame being received (R137). -/
def rxErrorAt (bs : List RxByte) (i : Nat) : Bool :=
  let vs := bs.map RxByte.value
  let b := vs.getD i 0
  let kind := vs.getD 2 0
  let len := byteAt vs 3
  (bs.getD i ⟨0, false, 0⟩).fault
  || (decide (0 < i) && decide (20 < (bs.getD i ⟨0, false, 0⟩).gap))
  || (decide (i = 0) && decide (b ≠ 0x6A))
  || (decide (i = 1) && decide (7 < b.toNat))
  || (decide (i = 2) && (decide (b.toNat = 0) || decide (7 < b.toNat)))
  || (decide (i = 3) && !lengthAllowed kind len)
  || (decide (i = 11) && decide (kind = 0x01) && decide (b ≠ 0x01))
  || (decide (3 < i) && decide (i = 4 + len) && !sumsToZero ((vs.take (5 + len)).drop 1))
  || (decide (3 < i) && decide (i = 5 + len) && decide (b ≠ 0x95))

/-- The entries of an ANNOUNCE payload (Table 11-3). -/
def announceEntries (p : List Byte) : List AnnounceEntry :=
  (List.range ((p.length - 1) / 9)).map (fun i =>
    { number := p.getD (1 + 9 * i) 0, kind := p.getD (2 + 9 * i) 0, windowStart := timeAt p (3 + 9 * i),
      windowEnd := timeAt p (6 + 9 * i), level := p.getD (9 + 9 * i) 0 })

/-- The command of an accepted frame (Table 11-3); `pulse` as in Instr. -/
def frameCommand (sender : Station) (kind : Byte) (p : List Byte) (pulse : Bool) : Option Instr :=
  match kind.toNat with
  | 1 => some (.join sender (timeAt p 0) (BitVec.ofNat 32 (wordAt p 3 + 65536 * wordAt p 5)) pulse)
  | 2 => some (.beacon sender (timeAt p 0) (BitVec.ofNat 16 (wordAt p 3)) (p.getD 5 0) (p.getD 6 0) pulse)
  | 3 => some (.claim sender (timeAt p 0) (p.getD 3 0) (p.getD 4 0) (timeAt p 5) (timeAt p 8) (p.getD 11 0)
      pulse)
  | 4 => some (.release sender (timeAt p 0) (p.getD 3 0) (timeAt p 4) pulse)
  | 5 => some (.syncRequest sender)
  | 6 => some (.announce sender (p.getD 0 0) (announceEntries p))
  | 7 => some (.syncDone sender (timeAt p 0) (BitVec.ofNat 16 (wordAt p 3)) pulse)
  | _ => none

/-- What a run of received bytes spells, `idle` the idle bit times since the last of them: a frame error
where a check fails at one of them, the command of a whole frame, a frame error where the frame stops short
and the gap exceeds 20 bit times, or nothing yet (R136, R137). -/
def lineCommand (bs : List RxByte) (idle : Nat) (pulse : Bool) : Option Instr :=
  let vs := bs.map RxByte.value
  let len := byteAt vs 3
  if (List.range bs.length).any (rxErrorAt bs) then some (.linkFrameError true)
  else if 6 + len ≤ bs.length then
    frameCommand (BitVec.ofNat 3 (byteAt vs 1)) (vs.getD 2 0) ((vs.take (4 + len)).drop 4) pulse
  else if bs ≠ [] ∧ 20 < idle then some (.linkFrameError true)
  else none

/-- The bytes of one frame on the line and the idle bit times after them: its command joins the queue
(R136, R137). -/
def State.lineFrame (s : State) (bs : List RxByte) (idle : Nat) (pulse : Bool) : State :=
  { s with pending := s.pending ++ (lineCommand bs idle pulse).toList }

/-! ### The line, bit time by bit time -/

/-- Commands of the line join the queue. -/
def State.queueCommands (s : State) (cs : List Instr) : State := { s with pending := s.pending ++ cs }

/-- One bit time of the station's own frame, read back (R134): the next bit, the end of the frame, or a
collision, from which the receiver has the bits read back as the beginning of a frame. A collision at a stop bit
leaves the last of their bytes with a framing fault, which is a frame error at that byte (R137, log 31). -/
def State.readBack (s : State) (level : Bool) : State :=
  if level = s.driven then
    let s1 : State := { s with link := { s.link with bit := s.link.bit + 1, lineHigh := level } }
    if s.frameBits.length ≤ s.link.bit + 1 then s1.queueCommands [.transmissionCompletes] else s1
  else
    let start : Link := { s.link with byteBits := none, lineHigh := true, idleCount := 0 }
    let read := start.sampleAll (s.frameBits.take s.link.bit ++ [level])
    let s1 : State := { s with link := { read.1 with receiver := .receiving, assembly := read.2 } }
    s1.queueCommands (.collision :: if read.2.any RxByte.fault then [.linkFrameError false] else [])

/-- What a completed byte does at a receiver that assembles a frame (R136, R137): it joins the frame, and
where it decides the frame its command joins the queue. An error in the rest of a collided frame with no
level of another unit in it is marked so (log 31). -/
def State.receiveByte (s : State) (b : RxByte) (pulse : Bool) : State :=
  let bs := s.link.assembly ++ [b]
  match lineCommand bs 0 pulse with
  | none => { s with link := { s.link with assembly := bs } }
  | some (.linkFrameError _) =>
    State.queueCommands { s with link := { s.link with assembly := [] } } [.linkFrameError (!s.link.postSend)]
  | some c =>
    State.queueCommands { s with link := { s.link with assembly := [], receiver := .idle } } [c]

/-- What the idle line brings (R132, R137): a truncation of the frame being assembled, the end of discarding
and of the wait of LISTEN, and the start of a frame whose wait has ended. -/
def State.lineIdle (s : State) : State :=
  let s1 : State :=
    if s.link.idleCount ≤ 20 then s
    else match s.link.receiver with
      | .receiving =>
        State.queueCommands { s with link := { s.link with assembly := [] } }
          [.linkFrameError (!s.link.postSend), .idleForMoreThan20BitTimes]
      | .discarding | .waitingIdle => s.queueCommands [.idleForMoreThan20BitTimes]
      | .idle => s
  if s.mayStart s.link.idleCount && s.link.queue.any s.eligible then
    s1.queueCommands [.frameStart s.link.idleCount]
  else s1

/-- One bit time of the line while the station sends nothing (R128, R132, R136): a low level ends the
post-send condition; a byte begun at an idle receiver begins a frame. -/
def State.receiveBit (s : State) (level pulse : Bool) : State :=
  let sampled := ({ s.link with postSend := s.link.postSend && level }).sample level
  let s1 : State := { s with link := sampled.1 }
  match sampled.2, s.link.receiver with
  | some b, .receiving => s1.receiveByte b pulse
  | _, .idle =>
    if level then s1.lineIdle
    else if s1.link.byteBits.isSome then { s1 with link := { s1.link with receiver := .receiving } }
    else s1
  | _, _ => if level then s1.lineIdle else s1

/-- One bit time of the Share Link at its level, as the outside gives it (R128): the Link Controller reads
the line in LISTEN, JOINING and ACTIVE, its own frame as readback. `pulse`: an INDEX pulse has been taken
since the frame on the line began (R147). The commands that the bit time brings join the queue; they are
taken before the next bit time (log 38). -/
def State.lineBit (s : State) (level pulse : Bool) : State :=
  if s.pins.rstn && s.readsLine then
    match s.link.onLine with
    | some _ => s.readBack level
    | none => s.receiveBit level pulse
  else s

end Sys2Proof.Machine
end

