-- ==== Sys2Proof/Machine/Time.lean ====
section
/-! DEFINITION. What the clock owes: the station's outstanding clock events, carrying the clock to the time
of an event, the event that is due, and the advance of the clock (R3, R4; logs 1 and 3). -/

namespace Sys2Proof.Machine

/-- What a meaning answers. -/
abbrev Answer := Host.Outcome State Fault Refusal

/-- The clock event that ends or moves the current plan, with its time (R73, R75, R76, R80). -/
def State.planEvents (s : State) : List (Time × Instr) :=
  match s.currentRecord with
  | none => []
  | some r => match r.state, s.seq.profile, s.search with
    | .preheat, some p, _ | .paused .preheat, some p, _ | .ready, some p, _ | .paused .ready, some p, _ =>
      [(writeStartDeadlineOf s.config r p, .writeStartDeadline)]
    | .writing, some p, _ | .paused .writing, some p, _ => [(writeDeadlineOf r p, .writeDeadline)]
    | .tail, _, _ => [(r.windowEnd, .windowEndReached)]
    | .calibrating, _, some x =>
      [(calStepEndOf s.config r x, .calibrationStepEnd s.pins.monlo s.pins.monhi)]
    | _, _, _ => []

/-- The clock event of a waiting record: its transmit deadline while QUEUED (R46), its opening while GRANTED
and no plan is executing (R68, R79, log 25). -/
def State.recordEvents (s : State) (r : Record) : List (Time × Instr) :=
  let opens : Instr := match r.kind with
    | .write => .writeWindowOpens r.tag s.pins.railAlert
    | .cal => .calWindowOpens r.tag s.pins.railAlert
  if r.state = .queued then [(transmitDeadlineOf r, .transmitDeadline r.tag)]
  else if s.seq.current.isNone then (s.openingOf r).toList.map (fun t => (t, opens))
  else []

/-- The last angle of the current revolution, at which the clock holds (R3). -/
def Clock.holdTime (c : Clock) : Time := c.revolution ++ (4095#12)

/-- The station's outstanding clock events with their times. -/
def State.timeEvents (s : State) : List (Time × Instr) :=
  (if s.takesEvents then s.planEvents ++ s.plans.records.flatMap s.recordEvents else [])
  ++ (if s.clock.running then [(s.clock.holdTime, .clockHold)] else [])

/-- The clock carried to the time of an event: it stands there already or has passed it (R4), or it
advances there within its revolution, passing no other outstanding event and no swap that is due, and holds
if that is angle 4095 (R3, R108, log 3). None where the time is not reached. -/
def State.clockTo (s : State) (t : Time) : Option State :=
  if s.reached t then some s
  else if s.pins.rstn && s.clock.running && !s.swapDue && decide (stampRevolution t = s.clock.revolution)
      && s.timeEvents.all (fun e => !timeBefore e.1 t) then
    some { s with clock := s.clock.advanceTo (t.extractLsb' 0 12) }
  else none

/-- An event of the clock is taken at its time; where that time is not reached, nothing happens. -/
def State.atTime (s : State) (t : Time) (act : State → State) : State :=
  match s.clockTo t with
  | some s' => act s'
  | none => s

/-- The earliest of a list of events; of those at one time the first. -/
def earliest : List (Time × Instr) → Option (Time × Instr)
  | [] => none
  | e :: es => match earliest es with
    | none => some e
    | some f => if timeBefore f.1 e.1 then some f else some e

/-- The event that is due: a pending swap with no plan executing (R108), or the earliest of the clock events
whose time is reached (R4, log 25). -/
def State.dueEvent (s : State) : Option Instr :=
  if s.swapDue then some .swapResolution
  else if s.pins.rstn then (earliest (s.timeEvents.filter (fun e => s.reached e.1))).map Prod.snd
  else none

/-- The clock advances by one angle unit, while it runs and has not reached 4095, where it holds (R3, log 1). -/
def State.tick (s : State) : State :=
  if s.pins.rstn && s.clock.running && decide (s.clock.angle ≠ 4095) then
    { s with clock := s.clock.advanceTo (s.clock.angle + 1) }
  else s

end Sys2Proof.Machine
end

