-- ==== Sys2Proof/Machine/PlanQueue.lean ====
section
/-! DEFINITION. The requests of the Plan Queue (chapter 3): POST, CALIBRATE, CANCEL, QUERY, COLLECT. -/

namespace Sys2Proof.Machine

/-! ### Acceptance -/

/-- The fields of a POST request (Table 11-5). -/
structure PostRequest where
  tag       : Tag
  head      : Nat
  zone      : Nat
  planStart : Nat
  length    : Nat
  deriving DecidableEq, Repr

/-- A POST request from its 8 bytes (Table 11-5). -/
def postRequest (p : List Byte) : PostRequest :=
  { tag := p.getD 0 0, head := byteAt p 1, zone := byteAt p 2, planStart := tripleAt p 3,
    length := wordAt p 6 }

/-- A CALIBRATE request from its 5 bytes, as a POST of the configured calibration length (Table 11-5,
R44). -/
def calibrateRequest (c : Configuration) (p : List Byte) : PostRequest :=
  { tag := p.getD 0 0, head := byteAt p 1, zone := 0, planStart := tripleAt p 2, length := c.calLength }

/-- A claim number is held by a record that is live or has its release pending (R43). -/
def PlanQueue.claimUsed (q : PlanQueue) (n : Nat) : Bool :=
  q.records.any (fun r => decide (r.claim = n) && (r.live || r.releasePending))

/-- The lowest claim number 0..15 held by no such record (R43). -/
def PlanQueue.freeClaim (q : PlanQueue) : Nat :=
  ((List.range 16).find? (fun n => !q.claimUsed n)).getD 0

/-- The record a request makes, with the window computed from it (R40, R43, R44). -/
def newRecord (q : PlanQueue) (k : PlanKind) (x : PostRequest) (lead tail level : Nat) : Record :=
  let start := BitVec.ofNat 20 x.planStart
  { tag := x.tag, kind := k, head := x.head, zone := x.zone, planStart := start, length := x.length,
    lead := lead, tailAllowance := tail, level := level, windowStart := timeMinus start lead,
    windowEnd := timePlus start (x.length + tail), claim := q.freeClaim, sequence := q.accepted,
    state := .queued, cancel := none, releasePending := false, outcome := none, finishStamp := none,
    hint := none, report := none, calResult := none, faultStamp := none }

/-- The span of a record's window (R36). -/
def Record.span (r : Record) : Nat := r.lead + r.length + r.tailAllowance

/-- The gap from the earlier to the later of two windows that do not overlap (R42). -/
def windowGap (ws we vs ve : Time) : Int :=
  if timeBefore ws ve then timeDiff vs we else timeDiff ws ve

/-- The window overlaps the window of a live record (R42). -/
def ownOverlap (q : PlanQueue) (r : Record) : Bool :=
  q.records.any (fun x => x.live && windowsOverlap r.windowStart r.windowEnd x.windowStart x.windowEnd)

/-- The window does not keep the head gap to a live window on the same head (R42). -/
def headGapBroken (gMin : Nat) (q : PlanQueue) (r : Record) : Bool :=
  q.records.any (fun x => x.live && decide (x.head = r.head)
    && decide (windowGap r.windowStart r.windowEnd x.windowStart x.windowEnd < (gMin : Int)))

/-- The window checks that POST and CALIBRATE share, after the check on the length: checks 8 to 12 of Table
3-4, 7 to 11 of Table 3-5. -/
def windowVerdict (now : Time) (gMin : Nat) (q : PlanQueue) (r : Record) : Result :=
  if Config.maxSpan < r.span then .tooLong
  else if timeDiff r.windowStart now < (Config.minLead : Int) then .tooSoon
  else if (Config.horizon : Int) < timeDiff r.windowStart now then .tooFar
  else if ownOverlap q r then .ownOverlap
  else if headGapBroken gMin q r then .headGap
  else .ok

/-- The argument ranges of head, plan start (R40, R44). -/
def headAndStartInRange (c : Configuration) (x : PostRequest) : Bool :=
  decide (x.head < c.headCount) && decide (x.planStart ≤ 1048575)

/-- The acceptance checks of POST: the result, and the record where it is OK (Table 3-4). -/
def State.postChecks (s : State) (x : PostRequest) : Result × Option Record :=
  if s.station ≠ .active then (.wrongState, none)
  else if !headAndStartInRange s.config x || decide (15 < x.zone) || decide (x.length = 0) then
    (.badArgument, none)
  else if Config.queueCapacity ≤ s.plans.records.length then (.queueFull, none)
  else if s.plans.records.any (fun r => decide (r.tag = x.tag)) then (.tagInUse, none)
  else if (s.headRecord x.head).state ≠ .valid then (.headNotReady, none)
  else if s.restrictions.fence.covers x.zone then (.fenced, none)
  else match s.store.activeBank.profile x.zone with
    | none => (.noProfile, none)
    | some p =>
      let r := newRecord s.plans .write x p.lead p.tailAllowance p.level
      if s.config.lMax < x.length then (.tooLong, none)
      else match windowVerdict s.now s.config.gMin s.plans r with
        | .ok => (.ok, some r)
        | e => (e, none)

/-- The acceptance checks of CALIBRATE: the result, and the record where it is OK (Table 3-5). -/
def State.calibrateChecks (s : State) (x : PostRequest) : Result × Option Record :=
  if s.station ≠ .active then (.wrongState, none)
  else if s.restrictions.calibrate then (.withdrawn, none)
  else if !headAndStartInRange s.config x then (.badArgument, none)
  else if Config.queueCapacity ≤ s.plans.records.length then (.queueFull, none)
  else if s.plans.records.any (fun r => decide (r.tag = x.tag)) then (.tagInUse, none)
  else if s.plans.records.any (fun r => r.live && decide (r.kind = .cal)) then (.busy, none)
  else
    let r := newRecord s.plans .cal x 0 0 s.config.calLevel
    match windowVerdict s.now s.config.gMin s.plans r with
    | .ok => (.ok, some r)
    | e => (e, none)

/-- An accepted record joins the queue, and its CLAIM the transmit queue (R43). -/
def State.accept (s : State) (r : Record) : State :=
  { s with
    plans := { s.plans with records := s.plans.records ++ [r], accepted := s.plans.accepted + 1 },
    link := s.link.enqueue (.claim r.claim r.kind r.windowStart r.windowEnd r.level) }

/-- The reply to a POST or CALIBRATE, with the acceptance where the checks pass (R41, R43). -/
def State.acceptOrRefuse (s : State) (kind : Byte) (v : Result × Option Record) : State :=
  match v.2 with
  | some r => (s.accept r).answer kind .ok (acceptedBytes r)
  | none => s.answer kind v.1

/-- POST (R40 to R43). -/
def execPost (p : List Byte) (s : State) : Answer :=
  .next (s.request 0x40 p 8 (fun s => s.acceptOrRefuse 0x40 (s.postChecks (postRequest p))))

/-- CALIBRATE (R44). -/
def execCalibrate (p : List Byte) (s : State) : Answer :=
  .next (s.request 0x32 p 5
    (fun s => s.acceptOrRefuse 0x32 (s.calibrateChecks (calibrateRequest s.config p))))

/-! ### CANCEL -/

/-- The mode a CANCEL byte names (section 10.1). -/
def cancelModeOf (n : Nat) : Option CancelMode :=
  match n with
  | 0 => some .immediate
  | 1 => some .segmentEnd
  | _ => none

/-- The effect of a CANCEL by the record's state (Table 3-9, R53 to R58). -/
def State.cancelRecord (s : State) (r : Record) (m : CancelMode) : State :=
  match r.state with
  | .queued => s.finish r { outcome := .cancelled }
  | .claiming => s.updateRecord r.tag (fun x => { x with cancel := some m })
  | .granted => s.finish r { outcome := .cancelled, release := some r.windowStart }
  | .preheat | .paused .preheat => match m with
    | .immediate => s.endPlan r .cancelled none
    | .segmentEnd => s.updateRecord r.tag (fun x => { x with cancel := some .segmentEnd })
  | .writing | .paused .writing => match m with
    | .immediate => s.assertWfault.endPlan r .cancelled none
    | .segmentEnd => s.updateRecord r.tag (fun x => { x with cancel := some .segmentEnd })
  | .ready | .paused .ready | .calibrating => s.endPlan r .cancelled none
  | .tail | .finished => s

/-- A CANCEL comes too late for a record in TAIL or FINISHED (R52). -/
def Record.tooLate (r : Record) : Bool := decide (r.state = .tail) || decide (r.state = .finished)

/-- CANCEL (R52). -/
def execCancel (p : List Byte) (s : State) : Answer :=
  .next (s.request 0x41 p 2 (fun s =>
    if s.station = .halted then s.answer 0x41 .wrongState
    else match cancelModeOf (byteAt p 1) with
      | none => s.answer 0x41 .badArgument
      | some m => match s.plans.find (p.getD 0 0) with
        | none => s.answer 0x41 .noSuchTag
        | some r =>
          if r.tooLate then s.answer 0x41 .tooLate
          else (s.cancelRecord r m).answer 0x41 .ok [p.getD 0 0]))

/-! ### QUERY and COLLECT -/

/-- QUERY (R60). -/
def execQuery (p : List Byte) (s : State) : Answer :=
  .next (s.request 0x42 p 1 (fun s =>
    if s.station = .halted then s.answer 0x42 .wrongState
    else match s.plans.find (p.getD 0 0) with
      | none => s.answer 0x42 .noSuchTag
      | some r => s.answer 0x42 .ok (recordBytes r)))

/-- The collectable record that stands first in finish order (R61). -/
def PlanQueue.firstCollectable (q : PlanQueue) : Option Record :=
  (q.finished.filterMap q.find).find? Record.collectable

/-- A collected record leaves the queue (R61). -/
def PlanQueue.remove (q : PlanQueue) (t : Tag) : PlanQueue :=
  { q with records := q.records.filter (fun r => r.tag != t), finished := q.finished.filter (fun u => u != t) }

/-- COLLECT (R61). -/
def execCollect (p : List Byte) (s : State) : Answer :=
  .next (s.request 0x43 p 0 (fun s =>
    if s.station = .halted then s.answer 0x43 .wrongState
    else match s.plans.firstCollectable with
      | none => s.answer 0x43 .empty
      | some r => State.answer { s with plans := s.plans.remove r.tag } 0x43 .ok (recordBytes r)))

end Sys2Proof.Machine
end

