-- ==== Sys2Proof/Machine/Station.lean ====
section
/-! DEFINITION. The requests of Station Control, the Profile Store and the Head Table (chapters 6, 7 and
10), the envelope refusals, and the reset line. -/

namespace Sys2Proof.Machine

/-! ### CONFIGURE and START (section 10.3) -/

/-- The configuration a CONFIGURE request carries; none where a fence side has no meaning (Table 10-5). -/
def configurationOf (p : List Byte) : Option Configuration :=
  (fenceSideOf (byteAt p 17)).map (fun side =>
    { bTotal := wordAt p 0, headCount := byteAt p 2, linkRate := byteAt p 3, lMax := wordAt p 4,
      gMin := wordAt p 6, lateTol := byteAt p 8, stepDuration := byteAt p 9, monitorWindow := byteAt p 10,
      deviationThreshold := byteAt p 11, calLength := wordAt p 12, calLevel := byteAt p 14,
      thresholdReference := byteAt p 15, writeReference := byteAt p 16,
      fence := { side := side, extent := byteAt p 18 } })

/-- The items of a configuration are in range and agree (R166, Table 10-5). -/
def Configuration.allowed (c : Configuration) : Bool :=
  decide (1 ≤ c.bTotal) && decide (c.bTotal ≤ 1023)
  && decide (1 ≤ c.headCount) && decide (c.headCount ≤ 16)
  && (decide (c.linkRate = 1) || decide (c.linkRate = 2) || decide (c.linkRate = 4)
      || decide (c.linkRate = 8))
  && decide (1 ≤ c.lMax) && decide (c.lMax ≤ 3568)
  && decide (c.gMin ≤ 1023) && decide (c.lateTol ≤ 255)
  && decide (1 ≤ c.stepDuration) && decide (c.stepDuration ≤ 255)
  && decide (1 ≤ c.monitorWindow) && decide (c.monitorWindow ≤ 127)
  && decide (1 ≤ c.deviationThreshold) && decide (c.deviationThreshold ≤ 14)
  && decide (80 ≤ c.calLength) && decide (c.calLength ≤ 1600)
  && decide (1 ≤ c.calLevel) && decide (c.calLevel ≤ 255)
  && decide (c.thresholdReference ≤ 255) && decide (c.writeReference ≤ 255)
  && decide (c.fence.extent ≤ 16)
  && !(decide (c.fence.side = .none) && decide (c.fence.extent ≠ 0))
  && decide (c.lateTol ≤ c.lMax) && decide (c.gMin ≤ c.lMax)

/-- CONFIGURE (R166). -/
def execConfigure (p : List Byte) (s : State) : Answer :=
  .next (s.request 0x10 p 19 (fun s =>
    if s.station ≠ .setup then s.answer 0x10 .wrongState
    else match configurationOf p with
      | none => s.answer 0x10 .badArgument
      | some c =>
        if c.allowed then State.answer { s with config := c } 0x10 .ok
        else s.answer 0x10 .badArgument))

/-- A requested fence is a widening of the fence held (R168). -/
def fenceWidens (held req : Fence) : Bool :=
  decide (req = held)
  || (decide (held.side = .none) && decide (req.side ≠ .none))
  || (decide (req.side = held.side) && decide (held.extent < req.extent))

/-- The live WRITE records that finish at once when a fence widens: QUEUED and GRANTED ones in a newly
fenced zone (R59). -/
def fencedRecords (old new : Fence) (records : List Record) : List Record :=
  records.filter (fun r => decide (r.kind = .write) && new.covers r.zone && !old.covers r.zone
    && (decide (r.state = .queued) || decide (r.state = .granted)))

/-- How a newly fenced record finishes (R59). -/
def fencedEnding (r : Record) : Ending :=
  { outcome := .fenced, release := if r.state = .granted then some r.windowStart else none }

/-- The fence held is widened: the new fence, and the records in newly fenced zones (R59, R169). -/
def State.widenFence (s : State) (f : Fence) : State :=
  let s1 : State := { s with restrictions := { s.restrictions with fence := f } }
  s1.finishAll (fencedRecords s.restrictions.fence f s.plans.records) fencedEnding

/-- START (R167). -/
def execStart (p : List Byte) (s : State) : Answer :=
  .next (s.request 0x11 p 0 (fun s =>
    if s.station ≠ .setup then s.answer 0x11 .wrongState
    else if s.config.bTotal < 1 then s.answer 0x11 .badArgument
    else if s.config.fence.side ≠ .none ∧ !fenceWidens s.restrictions.fence s.config.fence then
      s.answer 0x11 .badArgument
    else
      let s1 := if s.config.fence.side = .none then s else s.widenFence s.config.fence
      State.answer { s1 with station := .listen, peers := s1.peers.enterListen,
                             link := { s1.link with receiver := .waitingIdle } } 0x11 .ok))

/-! ### Profile Store requests (chapter 6) -/

/-- The station is in SETUP or ACTIVE (R100, R107, R117). -/
def State.setupOrActive (s : State) : Bool :=
  decide (s.station = .setup) || decide (s.station = .active)

/-- LOAD (R100, R101). -/
def execLoad (p : List Byte) (s : State) : Answer :=
  .next (s.request 0x20 p 4 (fun s =>
    let n := wordAt p 0
    let d := byteAt p 2
    let q := byteAt p 3
    if !s.setupOrActive then s.answer 0x20 .wrongState
    else if s.restrictions.load then s.answer 0x20 .withdrawn
    else if n < 1 ∨ 2048 < n ∨ d < 1 ∨ 64 < d ∨ 16 < q then s.answer 0x20 .badArgument
    else if s.store.swapPending then s.answer 0x20 .busy
    else State.answer { s with store := s.store.beginLoad n d q } 0x20 .ok))

/-- The reply to a final DATA frame: the verdict code and the item index (R105). -/
def State.answerVerdict (s : State) (v : Nat × Nat) : State :=
  s.answer 0x21 (if v.1 = 0 then .ok else .loadFailed) (byte1 v.1 ++ byte1 v.2)

/-- The bytes of a DATA request that passed are taken; the final one ends the load (R102, R105). -/
def State.takeDataFrame (s : State) (payload : List Byte) (more : Bool) (l : Load) : State :=
  let store := s.store.takeData l payload
  match store.load with
  | none => s
  | some l' =>
    if more then State.answer { s with store := store } 0x21 .received
    else State.answerVerdict { s with store := store.endLoad l' } l'.verdict

/-- DATA (R102 to R105): a payload of 0..64 bytes. -/
def execData (p : List Byte) (more : Bool) (s : State) : Answer :=
  .next (s.request 0x21 p (min p.length 64) (fun s =>
    if s.station = .halted then s.answer 0x21 .wrongState
    else if s.restrictions.load then s.answer 0x21 .withdrawn
    else match s.store.standbyBank.state, s.store.load with
      | .loading, some l => s.takeDataFrame p more l
      | _, _ => s.answer 0x21 .wrongState))

/-- SWAP (R107, R108): completed at once in SETUP; pending in ACTIVE, and resolved in the same action where
no plan is executing. -/
def execSwap (p : List Byte) (s : State) : Answer :=
  .next (s.request 0x22 p 0 (fun s =>
    if !s.setupOrActive then s.answer 0x22 .wrongState
    else if s.restrictions.load then s.answer 0x22 .withdrawn
    else if s.store.standbyBank.state ≠ .ready then s.answer 0x22 .wrongState
    else if s.station = .setup then State.answer { s with store := s.store.completeSwap } 0x22 .ok
    else
      let s1 : State :=
        { s with store := s.store.setStandby { s.store.standbyBank with state := .swapPending } }
      let s2 := if s.seq.current.isNone then s1.resolvePendingSwap else s1
      s2.answer 0x22 .ok))

/-- SWAP_RESOLUTION: the first moment with no plan executing (R108 to R111). -/
def execSwapResolution (s : State) : Answer :=
  .next s.resolveDueSwap

/-! ### Head Table requests (section 7.2) -/

/-- SET-HEAD (R117). -/
def execSetHead (p : List Byte) (s : State) : Answer :=
  .next (s.request 0x30 p 5 (fun s =>
    let h := byteAt p 0
    let thr := wordAt p 1
    let wc := wordAt p 3
    if !s.setupOrActive then s.answer 0x30 .wrongState
    else if s.config.headCount ≤ h ∨ 1023 < thr ∨ 1023 < wc then s.answer 0x30 .badArgument
    else if wc ≤ thr then s.answer 0x30 .badArgument
    else if s.station = .active ∧ s.plans.records.any (fun r => r.live && decide (r.head = h)) then
      s.answer 0x30 .busy
    else
      (s.setHeadRecord h { state := .valid, threshold := thr, write := wc, trim := 0, source := .set,
                           stamp := none }).answer 0x30 .ok))

/-- READ-HEAD (R119). -/
def execReadHead (p : List Byte) (s : State) : Answer :=
  .next (s.request 0x31 p 1 (fun s =>
    let h := byteAt p 0
    if s.config.headCount ≤ h then s.answer 0x31 .badArgument
    else s.answer 0x31 .ok (headBytes h (s.headRecord h))))

/-! ### STATUS, IDENTIFY, WITHDRAW, RESTART -/

/-- STATUS (R171): the status as it stands, and the fault record cleared (R170). -/
def execStatus (p : List Byte) (s : State) : Answer :=
  .next (s.request 0x50 p 0 (fun s =>
    State.answer { s with fault := FaultRecord.clear } 0x50 .ok s.statusBytes))

/-- IDENTIFY (R172). -/
def execIdentify (p : List Byte) (s : State) : Answer :=
  .next (s.request 0x51 p 0 (fun s => s.answer 0x51 .ok s.identityBytes))

/-- The capabilities a WITHDRAW marks become withdrawn; LOAD acts on the standby bank (R169, R113). -/
def State.withdrawCapabilities (s : State) (cal load trim : Bool) : State :=
  { s with
    restrictions := { s.restrictions with calibrate := s.restrictions.calibrate || cal,
                                          load := s.restrictions.load || load,
                                          trim := s.restrictions.trim || trim },
    store := if load && !s.restrictions.load then s.store.interrupt else s.store }

/-- WITHDRAW (R169): the capabilities, the fence, and the count of records finished FENCED. -/
def execWithdraw (p : List Byte) (s : State) : Answer :=
  .next (s.request 0x52 p 5 (fun s =>
    if s.station = .halted then s.answer 0x52 .wrongState
    else if 1 < byteAt p 0 ∨ 1 < byteAt p 1 ∨ 1 < byteAt p 2 ∨ 16 < byteAt p 4 then
      s.answer 0x52 .badArgument
    else match fenceSideOf (byteAt p 3) with
      | none => s.answer 0x52 .badArgument
      | some side =>
        let f : Fence := { side := side, extent := byteAt p 4 }
        let s1 := s.withdrawCapabilities (decide (byteAt p 0 = 1)) (decide (byteAt p 1 = 1))
          (decide (byteAt p 2 = 1))
        if side = .none then
          if f.extent ≠ 0 then s.answer 0x52 .badArgument else s1.answer 0x52 .ok (byte1 0)
        else if !fenceWidens s.restrictions.fence f then s.answer 0x52 .badArgument
        else (s1.widenFence f).answer 0x52 .ok
          (byte1 (fencedRecords s.restrictions.fence f s.plans.records).length)))

/-- What RESTART does to a station that takes it (R173). -/
def State.restart (s : State) : State :=
  let s1 := (s.setLaser .off).assertWfault
  { s1 with
    seq := s1.seq.idle, burst := none, search := none,
    plans := { records := [], finished := [], accepted := s.plans.accepted },
    link := s.link.clear, table := [], peers := PeerBlock.cleared s.number,
    store := s.store.interrupt, station := .listen }

/-- RESTART (R173): the reply counts the live records discarded. -/
def execRestart (p : List Byte) (s : State) : Answer :=
  .next (s.request 0x5F p 0 (fun s =>
    if s.readsLine then
      s.restart.answer 0x5F .ok (byte1 (s.plans.records.filter Record.live).length)
    else s.answer 0x5F .wrongState))

/-! ### Envelope refusals (section 10.1) -/

/-- A request whose envelope is not sound: FRAME_ERROR with KIND 0x00; a load in progress ends (R163, R106),
except in HALTED, where the Profile Store is frozen (R99, log 23). -/
def execPlanPortFrameError (s : State) : Answer :=
  .next (if !s.pins.rstn then s
    else
      let ends := decide (s.store.standbyBank.state = .loading) && decide (s.station ≠ .halted)
      State.answer { s with store := if ends then s.store.dropLoad else s.store } 0x00 .frameError)

/-- A sound request of an unknown kind (R164). -/
def execUnknownKind (kind : Byte) (_payload : List Byte) (s : State) : Answer :=
  .next (if !s.pins.rstn then s else s.answer kind .unknownKind)

/-! ### The reset line (section 10.8) -/

/-- The rise of RSTn: every block takes its power-on values, the straps give the station number, the input
lines stand as they are (R174). The queue of commands and the free index are the model's own. -/
def execPowerOn (straps : Station) (s : State) : Answer :=
  .next { State.reset with
    pending := s.pending, free := s.free, pins := { s.pins with rstn := true }, number := straps,
    peers := PeerBlock.cleared straps }

/-- The fall of RSTn: laser enable low, WFAULT deasserted, SLD released (R174, log 16). -/
def execRstnFalls (s : State) : Answer :=
  .next (if !s.pins.rstn then s
    else
      let s1 := (s.setLaser .off).releaseWfault
      { s1 with pins := { s1.pins with rstn := false }, link := { s1.link with onLine := none } })

end Sys2Proof.Machine
end

