-- ==== Sys2Proof/Machine/Events.lean ====
section
/-! DEFINITION. The clock, the gates, the rail alert, window edges, deadlines and steps (chapters 1, 4, 5 and
7). -/

namespace Sys2Proof.Machine

/-! ### The clock (chapter 1) -/

/-- INDEX_PULSE (R2). -/
def execIndexPulse (interval : Nat) (s : State) : Answer := .next (s.takePulse interval)

/-- CLOCK_HOLD (R3): the angle reaches 4095 and the hold flag is set. -/
def execClockHold (s : State) : Answer :=
  .next (if s.pins.rstn && s.clock.running then
    s.atTime s.clock.holdTime (fun s => { s with clock := s.clock.advanceTo 4095 })
  else s)

/-- The endings of spindle loss: every live record finishes SPINDLE, in acceptance order; the owner of an
open burst with its report (R12, R38). -/
def State.spindleEnding (s : State) (r : Record) : Ending :=
  { outcome := .spindle,
    report := (s.burst.filter (fun b => b.tag == r.tag)).map
      (fun b => b.report s.config.deviationThreshold) }

/-- Every release-pending flag clears (R12). -/
def PlanQueue.clearReleases (q : PlanQueue) : PlanQueue :=
  { q with records := q.records.map (fun r => { r with releasePending := false }) }

/-- What spindle loss does outside HALTED, once the clock has taken it (R12, R13, R87, R96). -/
def State.loseSpindle (s : State) : State :=
  let report := s.burst.map (fun b => b.report s.config.deviationThreshold)
  let head := (s.burst.map Burst.head).getD 0
  let s1 := (s.setLaser .off).assertWfault
  let s2 := s1.finishAll (s1.plans.records.filter Record.live) s.spindleEnding
  let s3 : State :=
    { s2 with plans := s2.plans.clearReleases, link := s2.link.clear, seq := s2.seq.idle, burst := none,
              search := none }
  let s4 := s3.resolvePendingSwap.afterBurst head report
  let s5 : State :=
    { s4 with table := [], peers := PeerBlock.cleared s4.number,
              station := if s4.station = .setup then .setup else .listen }
  s5.writeFault .spindleLost s5.now

/-- SPINDLE_LOSS (R11 to R13): the hold has lasted longer than half the measured period. -/
def execSpindleLoss (s : State) : Answer :=
  .next (if s.pins.rstn && s.clock.valid && s.clock.hold then
    let s1 : State := { s with clock := s.clock.lost }
    if s.station = .halted then s1.writeFault .spindleLost s1.now else s1.loseSpindle
  else s)

/-- The next pulse makes an entry LOST (R145). -/
def State.lostNext (s : State) (n : Station) : Bool :=
  let e := s.peers.entry n
  s.readsLine && (decide (e.state = .joining) || decide (e.state = .active))
    && decide (4 ≤ e.lastHeard + 1)

/-- PEER_LOST (R145): the INDEX pulse at which peer n is marked LOST (log 4). -/
def execPeerLost (n : Station) (interval : Nat) (s : State) : Answer :=
  .next (if s.lostNext n then s.takePulse interval else s)

/-- LISTEN_END (R148): the second INDEX pulse of LISTEN (log 4). -/
def execListenEnd (interval : Nat) (s : State) : Answer :=
  .next (if decide (s.station = .listen) && decide (2 ≤ s.peers.listenPulses + 1) then s.takePulse interval
    else s)

/-- RESYNC_TIMEOUT (R157): the INDEX pulse at which the requester abandons (log 4). -/
def execResyncTimeout (interval : Nat) (s : State) : Answer :=
  .next (if s.readsLine && s.peers.requester && decide (2 ≤ s.peers.requesterPulses + 1)
      && !s.syncDoneStarted then s.takePulse interval
    else s)

/-- QUIET_TIMEOUT (R159): the second INDEX pulse since the latest request helped (log 4). -/
def execQuietTimeout (interval : Nat) (s : State) : Answer :=
  .next (if s.readsLine && s.peers.quiet.isSome && decide (2 ≤ s.peers.quietPulses + 1) then
      s.takePulse interval
    else s)

/-! ### The write gate (sections 4.3, 4.6 and 4.8) -/

/-- The write starts: WRITING at the first sample of the write segment, the first-step flag set, a burst
opened (R70, R88). -/
def State.startWrite (s : State) (r : Record) (p : Profile) : State :=
  let s1 := s.updateRecord r.tag (fun x => { x with state := .writing })
  let s2 : State := { s1 with burst := some (Burst.opened r), seq := { s1.seq with firstStep := true } }
  s2.playSample r p .write 0 0

/-- A stray gate (R84). -/
def State.strayGate (s : State) : State := (s.assertWfault).writeFault .strayGate s.now

/-- A rise of WGATE as the current plan takes it (Table 4-3, R81). -/
def State.planGateRise (s : State) (r : Record) : State :=
  match r.state, s.seq.profile with
  | .ready, some p => s.startWrite r p
  | .paused .ready, _ => s.clash r
  | .preheat, _ | .paused .preheat, _ => s.assertWfault.endPlan r .coldWrite (some s.now)
  | .calibrating, _ => s.assertWfault.endPlan r .interrupted (some s.now)
  | .tail, _ => s.strayGate
  | _, _ => s

/-- WGATE_RISE (R70, R74, R77, R81, R84, R85). -/
def execWgateRise (s : State) : Answer :=
  .next (if s.pins.wgate then s
    else
      let s1 : State := { s with pins := { s.pins with wgate := true } }
      if !s.pins.rstn then s1
      else if s.station = .halted then s1.strayGate
      else match s1.currentRecord with
        | some r => s1.planGateRise r
        | none => s1.strayGate)

/-- A fall of WGATE as the current plan takes it: it ends a write (R75). -/
def State.planGateFall (s : State) (r : Record) : State :=
  match r.state, s.seq.profile with
  | .writing, some p | .paused .writing, some p => s.enterTail r p none
  | _, _ => s

/-- WGATE_FALL (R75, R83). -/
def execWgateFall (s : State) : Answer :=
  .next (if !s.pins.wgate then s
    else
      let s1 : State := { s with pins := { s.pins with wgate := false } }
      if !s.pins.rstn then s1
      else if s.station = .halted then s1.releaseWfault
      else match s1.currentRecord with
        | some r => s1.releaseWfault.planGateFall r
        | none => s1.releaseWfault)

/-! ### The servo gate (section 4.3) -/

/-- A rise of SGATE as the current plan takes it (R71, R77). -/
def State.planServoRise (s : State) (r : Record) : State :=
  match r.state, s.seq.profile with
  | .preheat, some p => s.pause r p .preheat
  | .ready, some p => if s.pins.wgate then s.clash r else s.pause r p .ready
  | .writing, some p => if s.seq.firstStep then s.clash r else s.pause r p .writing
  | _, _ => s

/-- SGATE_RISE (R71, R77). -/
def execSgateRise (s : State) : Answer :=
  .next (if s.pins.sgate then s
    else
      let s1 : State := { s with pins := { s.pins with sgate := true } }
      if s.takesEvents then
        match s1.currentRecord with
        | some r => s1.planServoRise r
        | none => s1
      else s1)

/-- A fall of SGATE resumes what a PAUSED record remembers (R72). -/
def State.planServoFall (s : State) (r : Record) : State :=
  match r.state, s.seq.profile, s.seq.position with
  | .paused .preheat, some p, some pos =>
    (s.updateRecord r.tag (fun x => { x with state := .preheat })).advancePreheat
      { r with state := .preheat } p pos
  | .paused .ready, _, _ => s.updateRecord r.tag (fun x => { x with state := .ready })
  | .paused .writing, some p, some pos =>
    (s.updateRecord r.tag (fun x => { x with state := .writing })).advanceWrite
      { r with state := .writing } p pos
  | _, _, _ => s

/-- SGATE_FALL (R72). -/
def execSgateFall (s : State) : Answer :=
  .next (if !s.pins.sgate then s
    else
      let s1 : State := { s with pins := { s.pins with sgate := false } }
      if s.takesEvents then
        match s1.currentRecord with
        | some r => s1.planServoFall r
        | none => s1
      else s1)

/-! ### RAIL_ALERT (section 4.7) -/

/-- RAIL_ALERT_RISE (R82): the executing plan ends RAIL. -/
def execRailAlertRise (s : State) : Answer :=
  .next (
    let s1 : State := { s with pins := { s.pins with railAlert := true } }
    if s.takesEvents then
      match s1.currentRecord with
      | some r => s1.assertWfault.endPlan r .rail (some s.now)
      | none => s1
    else s1)

/-! ### Window edges (sections 4.3 and 4.6) -/

/-- An opening with RAIL_ALERT asserted: the record finishes RAIL, never having executed (R68, R79, R82, log
22). -/
def State.openRail (s : State) (r : Record) : State :=
  s.assertWfault.finish r
    { outcome := .rail, release := some r.windowStart, faultStamp := some s.now }

/-- The head values captured at an opening (R65). -/
def State.capture (s : State) (h : Nat) : HeadValues :=
  { threshold := (s.headRecord h).threshold, write := (s.headRecord h).write, trim := (s.headRecord h).trim }

/-- The opening of a WRITE window with RAIL_ALERT low: PREHEAT, or PAUSED from PREHEAT before its first
sample where SGATE is high (R68). -/
def State.openWrite (s : State) (r : Record) (p : Profile) : State :=
  let s1 : State :=
    { s with seq := { s.seq with current := some r.tag, profile := some p,
                                 captured := some (s.capture r.head), overrun := none } }
  if s.pins.sgate then
    let s2 : State := { s1 with seq := { s1.seq with
      position := some { phase := .preheat, segment := 0, sample := none } } }
    s2.pause r p .preheat
  else
    (s1.updateRecord r.tag (fun x => { x with state := .preheat })).playSample r p .preheat 0 0

/-- The level of RAIL_ALERT as it stands at an opening (log 7). -/
def State.setRail (s : State) (rail : Bool) : State :=
  { s with pins := { s.pins with railAlert := rail } }

/-- WRITE_WINDOW_OPENS (R66, R68), in its turn (log 25). -/
def execWriteWindowOpens (tag : Tag) (rail : Bool) (s : State) : Answer :=
  .next (match s.plans.find tag with
    | none => s
    | some r => match s.store.activeBank.profile r.zone with
      | none => s
      | some p =>
        if s.takesEvents && decide (r.state = .granted) && decide (r.kind = .write)
            && s.seq.current.isNone && s.opensFirst (timeMinus r.planStart p.lead) then
          s.atTime (timeMinus r.planStart p.lead) (fun s =>
            if rail then (s.setRail rail).openRail r else (s.setRail rail).openWrite r p)
        else s)

/-- The opening of a CAL window with RAIL_ALERT low: the search begins at step 1 (R79, R120, R121). -/
def State.openCal (s : State) (r : Record) : State :=
  let x : Search := { tag := r.tag, head := r.head, step := 1, threshold := 0, offset := 0, monlo := 0 }
  let s1 : State :=
    { s with seq := { s.seq with current := some r.tag, profile := none, captured := none,
                                 overrun := none },
             search := some x }
  let s2 := s1.updateRecord r.tag (fun y => { y with state := .calibrating })
  (s2.setReferences 0 s.config.thresholdReference).setLaser (.on r.head x.trialCode)

/-- CAL_WINDOW_OPENS (R79), in its turn (log 25). -/
def execCalWindowOpens (tag : Tag) (rail : Bool) (s : State) : Answer :=
  .next (match s.plans.find tag with
    | none => s
    | some r =>
      if s.takesEvents && decide (r.state = .granted) && decide (r.kind = .cal)
          && s.seq.current.isNone && s.opensFirst r.windowStart then
        s.atTime r.windowStart (fun s =>
          if rail then (s.setRail rail).openRail r else (s.setRail rail).openCal r)
      else s)

/-- WINDOW_END_REACHED (R75): the window end is reached in TAIL. -/
def execWindowEndReached (s : State) : Answer :=
  .next (match s.currentRecord with
    | none => s
    | some r =>
      if s.takesEvents && decide (r.state = .tail) then s.atTime r.windowEnd (fun s => s.endTail r) else s)

/-- The write-start deadline finds the record before its write (R73). -/
def Record.beforeWrite (r : Record) : Bool :=
  match r.state with
  | .preheat | .ready | .paused .preheat | .paused .ready => true
  | _ => false

/-- The record is WRITING or PAUSED from WRITING (R75, R76). -/
def Record.inWrite (r : Record) : Bool :=
  match r.state with
  | .writing | .paused .writing => true
  | _ => false

/-- WRITE_START_DEADLINE (R73). A preheat cut short passes READY without a hold-sample message: the laser goes
off at once, the model's choice (log 36). -/
def execWriteStartDeadline (s : State) : Answer :=
  .next (match s.currentRecord, s.seq.profile with
    | some r, some p =>
      if s.takesEvents && r.beforeWrite then
        s.atTime (writeStartDeadlineOf s.config r p) (fun s => s.endPlan r .missed (some s.now))
      else s
    | _, _ => s)

/-- WRITE_DEADLINE (R76). -/
def execWriteDeadline (s : State) : Answer :=
  .next (match s.currentRecord, s.seq.profile with
    | some r, some p =>
      if s.takesEvents && r.inWrite then
        s.atTime (writeDeadlineOf r p) (fun s => s.assertWfault.enterTail r p (some s.now))
      else s
    | _, _ => s)

/-- TRANSMIT_DEADLINE (R46). -/
def execTransmitDeadline (tag : Tag) (s : State) : Answer :=
  .next (match s.plans.find tag with
    | none => s
    | some r =>
      if s.takesEvents && decide (r.state = .queued) then
        s.atTime (transmitDeadlineOf r) (fun s => s.finish r { outcome := .late })
      else s)

/-! ### Steps (sections 4.2, 4.6 and 5.3) -/

/-- The levels of the comparator lines as they stand (log 8). -/
def State.setMonitorLines (s : State) (monlo monhi : Bool) : State :=
  { s with pins := { s.pins with monlo := monlo, monhi := monhi } }

/-- The end of a profile step by the record's state (R67, R90). -/
def State.profileStep (s : State) (r : Record) (p : Profile) (pos : Position) (monlo monhi : Bool) :
    State :=
  match r.state with
  | .preheat => s.advancePreheat r p pos
  | .writing =>
    let s1 := s.monitorReading monlo monhi
    let s2 : State := { s1 with seq := { s1.seq with firstStep := false } }
    s2.advanceWrite r p pos
  | .tail => s.advanceTail r p pos
  | _ => s

/-- PROFILE_STEP_END (R67, R69, R90). -/
def execProfileStepEnd (monlo monhi : Bool) (s : State) : Answer :=
  .next (
    let s1 := s.setMonitorLines monlo monhi
    if s.takesEvents then
      match s1.currentRecord, s1.seq.profile, s1.seq.position with
      | some r, some p, some pos => s1.profileStep r p pos monlo monhi
      | _, _, _ => s1
    else s1)

/-- CALIBRATION_STEP_END (R80). -/
def execCalibrationStepEnd (monlo monhi : Bool) (s : State) : Answer :=
  .next (
    let s1 := s.setMonitorLines monlo monhi
    match s1.currentRecord, s1.search with
    | some r, some x =>
      if s.takesEvents && decide (r.state = .calibrating) then
        s1.atTime (calStepEndOf s.config r x) (fun s => s.calibrationStep r x monlo monhi)
      else s1
    | _, _ => s1)

end Sys2Proof.Machine
end

