-- ==== Sys2Proof/Machine/LinkEvents.lean ====
section
/-! DEFINITION. The commands of the Share Link (chapters 8 and 9): the station's own frames, and the frames
and errors of the line. -/

namespace Sys2Proof.Machine

/-- FRAME_START (R132, R133): after its wait the station starts its first eligible entry. -/
def execFrameStart (idle : Nat) (s : State) : Answer :=
  .next (if s.mayStart idle then
    match s.link.queue.find? s.eligible with
    | some e => s.startFrame e
    | none => s
  else s)

/-- TRANSMISSION_COMPLETES (R133, R138). -/
def execTransmissionCompletes (s : State) : Answer :=
  .next (match s.link.onLine with
    | some o => if s.pins.rstn then s.complete o else s
    | none => s)

/-- COLLISION (R134, R135). -/
def execCollision (s : State) : Answer :=
  .next (match s.link.onLine with
    | some o => if s.pins.rstn then s.collide o else s
    | none => s)

/-- LINK_FRAME_ERROR (R137). While the receiver waits or discards it is no new error, only a level of another
unit on the line where `foreignLow` says so (R132). -/
def execLinkFrameError (foreignLow : Bool) (s : State) : Answer :=
  .next (if s.receives then s.frameError foreignLow else if foreignLow then s.foreignLevel else s)

/-- More than 20 idle bit times: the receiver looks for a lead byte again (R128, R137). -/
def execIdleForMoreThan20BitTimes (s : State) : Answer :=
  .next (if s.pins.rstn && s.readsLine
      && (decide (s.link.receiver = .waitingIdle) || decide (s.link.receiver = .discarding)) then
    { s with link := { s.link with receiver := .idle, idleCount := max s.link.idleCount 21 } }
  else s)

/-- JOIN (R151). -/
def execJoin (n : Station) (stamp : Time) (unit : BitVec 32) (pulse : Bool) (s : State) : Answer :=
  .next (s.takeFrame n (some stamp) (fun s => s.peerJoin n stamp unit pulse))

/-- BEACON (R153). -/
def execBeacon (n : Station) (stamp : Time) (d : BitVec 16) (claims sync : Byte) (pulse : Bool)
    (s : State) : Answer :=
  .next (s.takeFrame n (some stamp) (fun s => s.peerBeacon n stamp d claims sync pulse))

/-- CLAIM (R21, R22). -/
def execClaim (n : Station) (stamp : Time) (number kind : Byte) (ws we : Time) (level : Byte)
    (pulse : Bool) (s : State) : Answer :=
  .next (s.takeFrame n (some stamp) (fun s => s.peerClaim n stamp number kind ws we level pulse))

/-- RELEASE (R24). -/
def execRelease (n : Station) (stamp : Time) (number : Byte) (x : Time) (pulse : Bool) (s : State) :
    Answer :=
  .next (s.takeFrame n (some stamp) (fun s => s.peerRelease n stamp number x pulse))

/-- SYNC-REQUEST (R158). -/
def execSyncRequest (n : Station) (s : State) : Answer :=
  .next (s.takeFrame n none (fun s => s.peerSyncRequest n))

/-- ANNOUNCE (R33, R34). -/
def execAnnounce (n : Station) (final : Byte) (entries : List AnnounceEntry) (s : State) : Answer :=
  .next (s.takeFrame n none (fun s => s.peerAnnounce n final entries))

/-- SYNC-DONE (R159). -/
def execSyncDone (n : Station) (stamp : Time) (d : BitVec 16) (pulse : Bool) (s : State) : Answer :=
  .next (s.takeFrame n (some stamp) (fun s => s.peerSyncDone n stamp d pulse))

end Sys2Proof.Machine
end

