-- ==== Sys2Proof/Machine/Dispatch.lean ====
section
/-! DEFINITION. The dispatch: one arm per command. -/

namespace Sys2Proof.Machine

def exec (i : Instr) (s : State) : Host.Outcome State Fault Refusal :=
  match i with
  | .configure p => Sys2Proof.Machine.execConfigure p s
  | .start p => Sys2Proof.Machine.execStart p s
  | .load p => Sys2Proof.Machine.execLoad p s
  | .data p more => Sys2Proof.Machine.execData p more s
  | .swap p => Sys2Proof.Machine.execSwap p s
  | .setHead p => Sys2Proof.Machine.execSetHead p s
  | .readHead p => Sys2Proof.Machine.execReadHead p s
  | .calibrate p => Sys2Proof.Machine.execCalibrate p s
  | .post p => Sys2Proof.Machine.execPost p s
  | .cancel p => Sys2Proof.Machine.execCancel p s
  | .query p => Sys2Proof.Machine.execQuery p s
  | .collect p => Sys2Proof.Machine.execCollect p s
  | .status p => Sys2Proof.Machine.execStatus p s
  | .identify p => Sys2Proof.Machine.execIdentify p s
  | .withdraw p => Sys2Proof.Machine.execWithdraw p s
  | .restart p => Sys2Proof.Machine.execRestart p s
  | .planPortFrameError => Sys2Proof.Machine.execPlanPortFrameError s
  | .unknownKind k p => Sys2Proof.Machine.execUnknownKind k p s
  | .powerOn straps => Sys2Proof.Machine.execPowerOn straps s
  | .indexPulse interval => Sys2Proof.Machine.execIndexPulse interval s
  | .clockHold => Sys2Proof.Machine.execClockHold s
  | .spindleLoss => Sys2Proof.Machine.execSpindleLoss s
  | .peerLost n interval => Sys2Proof.Machine.execPeerLost n interval s
  | .listenEnd interval => Sys2Proof.Machine.execListenEnd interval s
  | .resyncTimeout interval => Sys2Proof.Machine.execResyncTimeout interval s
  | .quietTimeout interval => Sys2Proof.Machine.execQuietTimeout interval s
  | .wgateRise => Sys2Proof.Machine.execWgateRise s
  | .wgateFall => Sys2Proof.Machine.execWgateFall s
  | .sgateRise => Sys2Proof.Machine.execSgateRise s
  | .sgateFall => Sys2Proof.Machine.execSgateFall s
  | .railAlertRise => Sys2Proof.Machine.execRailAlertRise s
  | .writeWindowOpens t rail => Sys2Proof.Machine.execWriteWindowOpens t rail s
  | .calWindowOpens t rail => Sys2Proof.Machine.execCalWindowOpens t rail s
  | .profileStepEnd lo hi => Sys2Proof.Machine.execProfileStepEnd lo hi s
  | .windowEndReached => Sys2Proof.Machine.execWindowEndReached s
  | .writeStartDeadline => Sys2Proof.Machine.execWriteStartDeadline s
  | .writeDeadline => Sys2Proof.Machine.execWriteDeadline s
  | .transmitDeadline t => Sys2Proof.Machine.execTransmitDeadline t s
  | .calibrationStepEnd lo hi => Sys2Proof.Machine.execCalibrationStepEnd lo hi s
  | .swapResolution => Sys2Proof.Machine.execSwapResolution s
  | .frameStart idle => Sys2Proof.Machine.execFrameStart idle s
  | .transmissionCompletes => Sys2Proof.Machine.execTransmissionCompletes s
  | .collision => Sys2Proof.Machine.execCollision s
  | .linkFrameError low => Sys2Proof.Machine.execLinkFrameError low s
  | .join n t u pulse => Sys2Proof.Machine.execJoin n t u pulse s
  | .beacon n t d k y pulse => Sys2Proof.Machine.execBeacon n t d k y pulse s
  | .claim n t c k ws we l pulse => Sys2Proof.Machine.execClaim n t c k ws we l pulse s
  | .release n t c x pulse => Sys2Proof.Machine.execRelease n t c x pulse s
  | .syncRequest n => Sys2Proof.Machine.execSyncRequest n s
  | .announce n f es => Sys2Proof.Machine.execAnnounce n f es s
  | .syncDone n t d pulse => Sys2Proof.Machine.execSyncDone n t d pulse s
  | .rstnFalls => Sys2Proof.Machine.execRstnFalls s
  | .idleForMoreThan20BitTimes => Sys2Proof.Machine.execIdleForMoreThan20BitTimes s

end Sys2Proof.Machine
end

