-- ==== Sys2Proof/Machine/Step.lean ====
section
/-! DEFINITION. One step: the command at the front of the queue; on an empty queue the event that is due, or
the advance of the clock (log 1). -/

namespace Sys2Proof.Machine

/-- What the part does on an empty queue: it takes the event that is due, else its clock advances by one
angle unit, else it idles (log 1). -/
def idleStep (s : State) : Host.Outcome State Fault Refusal :=
  match s.dueEvent with
  | some c => exec c s
  | none => .next s.tick

/-- One step of the machine. -/
def step (s : State) : Host.Outcome State Fault Refusal :=
  match s.pending with
  | c :: rest => exec c { s with pending := rest }
  | [] => idleStep s

/-- The state with the command a table word spells put at the front of its queue. -/
def State.withFetchWord (s : State) (nbits w : Nat) : State :=
  match decodeTableWord nbits w with
  | some c => { s with pending := c :: s.pending }
  | none => s

end Sys2Proof.Machine
end

