-- ==== Sys2Proof/Safety.lean ====
section
/-! DEFINITION. The laws the station keeps, as predicates on its state: what the certificates say every step
preserves, and the shape of the ending of a plan that many of them share. -/

namespace Sys2Proof.Machine

/-! ### The laws of each block -/

/-- The clock (Table 1-1, R1, R3): the hold flag stands only at angle 4095, and there always on a rated clock; the
spindle-valid flag exactly
with a measured period. -/
def ClockSound (s : State) : Prop :=
  (s.clock.hold = true → s.clock.angle = 4095)
  ∧ (s.clock.valid = true → s.clock.angle = 4095 → s.clock.hold = true)
  ∧ s.clock.valid = s.clock.period.isSome
  ∧ (s.clock.valid = true → s.clock.pulseSeen = true)

/-- A claim entry has the fields of Table 2-1 in range, its span in 1..3584. -/
def EntrySound (e : Entry) : Prop :=
  e.number ≤ 15 ∧ 1 ≤ e.level ∧ e.level ≤ 255
  ∧ 1 ≤ timeDiff e.windowEnd e.windowStart ∧ timeDiff e.windowEnd e.windowStart ≤ 3584

/-- The Share Table (R15, R17, R18): at most 32 entries, each station and claim number once, the load within
B_total at every rotational time, and no entry in SETUP and LISTEN. -/
def TableSound (s : State) : Prop :=
  s.table.length ≤ 32
  ∧ s.table.Pairwise (fun a b => ¬(a.station = b.station ∧ a.number = b.number))
  ∧ (∀ e ∈ s.table, EntrySound e)
  ∧ (∀ t : Time, loadAt s.table t ≤ s.config.bTotal)
  ∧ (s.station = .setup ∨ s.station = .listen → s.table = [])

/-- A record stands behind its claim number: it is live or its release is pending (R43). -/
def ClaimHeld (r : Record) : Prop := r.live = true ∨ r.releasePending = true

/-- Two records of the queue agree with R38 (distinct tags), R42 (live windows do not overlap), R43 (distinct
claim numbers) and check 6 of CALIBRATE (one live CAL record). -/
def RecordsAgree (a b : Record) : Prop :=
  a.tag ≠ b.tag
  ∧ (a.live = true → b.live = true →
      windowsOverlap a.windowStart a.windowEnd b.windowStart b.windowEnd = false)
  ∧ (ClaimHeld a → ClaimHeld b → a.claim ≠ b.claim)
  ∧ ¬(a.live = true ∧ b.live = true ∧ a.kind = .cal ∧ b.kind = .cal)

/-- The Plan Queue (R38, R42, R43): at most 8 records, every two of which agree. -/
def QueueSound (s : State) : Prop :=
  s.plans.records.length ≤ 8 ∧ s.plans.records.Pairwise RecordsAgree

/-- The Burst Sequencer (R42, R63, R64, R83): the executing record and the current plan are one; the laser is
on only for a current plan, RSTn high and the station not HALTED; WFAULT stands only while WGATE and RSTn are high. -/
def SequencerSound (s : State) : Prop :=
  (∀ r ∈ s.plans.records, r.executing = true → s.seq.current = some r.tag)
  ∧ (∀ t, s.seq.current = some t → ∃ r ∈ s.plans.records, r.tag = t ∧ r.executing = true)
  ∧ (s.seq.laser ≠ .off → s.seq.current.isSome = true ∧ s.station ≠ .halted ∧ s.pins.rstn = true)
  ∧ (s.seq.wfault = true → s.pins.wgate = true ∧ s.pins.rstn = true)

/-- A bank has stores of the sizes of Table 6-1, its samples in canonical form. -/
def BankSound (b : Bank) : Prop :=
  Memory.wf b.samples = true ∧ (∀ c ∈ b.samples, c.1 < 2048) ∧ b.descriptors.length = 64
  ∧ b.profiles.length = 16

/-- The load record has its counts in the ranges of Table 6-6. -/
def LoadSound (l : Load) : Prop :=
  1 ≤ l.n ∧ l.n ≤ 2048 ∧ 1 ≤ l.d ∧ l.d ≤ 64 ∧ l.p ≤ 16 ∧ l.received ≤ 65535

/-- The Profile Store (R97, R98, R100): the active bank is EMPTY or READY, and the load record exists exactly
while the standby bank is LOADING. -/
def StoreSound (s : State) : Prop :=
  BankSound s.store.bankA ∧ BankSound s.store.bankB
  ∧ (s.store.activeBank.state = .empty ∨ s.store.activeBank.state = .ready)
  ∧ (s.store.standbyBank.state = .loading ↔ s.store.load.isSome = true)
  ∧ (∀ l, s.store.load = some l → LoadSound l)

/-- A head record has the fields of Table 7-1 in range, its write code above its threshold code where it is
VALID (R114). -/
def HeadSound (h : HeadRecord) : Prop :=
  h.threshold ≤ 1023 ∧ h.write ≤ 1023 ∧ -31 ≤ h.trim ∧ h.trim ≤ 31
  ∧ (h.state = .valid → h.threshold < h.write)

/-- A calibration search has the items of Table 7-4 in range: the bits still to be tried fit above what is
kept. -/
def SearchSound (x : Search) : Prop :=
  1 ≤ x.step ∧ x.step ≤ 20
  ∧ (x.step ≤ 10 → x.threshold + 2 ^ (11 - x.step) ≤ 1024 ∧ x.offset = 0)
  ∧ (10 < x.step → x.threshold + x.offset ≤ 1023)

/-- The Head Table (R114): 16 records, each in range; a search in progress in range. -/
def HeadsSound (s : State) : Prop :=
  s.heads.length = 16 ∧ (∀ h ∈ s.heads, HeadSound h) ∧ (∀ x, s.search = some x → SearchSound x)

/-- A Peer Table entry has the last-heard count its state allows (Table 9-2, R144, R145). -/
def PeerSound (e : PeerEntry) : Prop :=
  (e.state = .lost → e.lastHeard = 4)
  ∧ (e.state = .joining ∨ e.state = .active → e.lastHeard ≤ 3)
  ∧ (e.state = .absent → e = PeerEntry.absentEntry)

/-- The Peer Block (R143, R146, R150, R154): one entry per station number, the own one and no other SELF; the
sync state none in SETUP and LISTEN, and a requester exactly while RESYNCING. -/
def PeersSound (s : State) : Prop :=
  s.peers.table.length = 8 ∧ (∀ e ∈ s.peers.table, PeerSound e)
  ∧ (∀ n, (s.peers.entry n).state = .self ↔ n = s.number)
  ∧ (s.peers.requester = true ↔ s.peers.sync = .resyncing)
  ∧ (s.station = .setup ∨ s.station = .listen → s.peers.sync = .none)
  ∧ (s.station = .joining → s.peers.sync = .desync ∨ s.peers.sync = .resyncing)
  ∧ (s.station = .active → s.peers.sync ≠ .none)

/-- The number of entries of the transmit queue with a key that satisfies a test. -/
def keyCount (q : List TxEntry) (f : TxKey → Bool) : Nat := (q.filter (fun e => f e.key)).length

/-- The Link Controller (R135, R136, R139, R142, Table 8-3): at most one BEACON, one SYNC-DONE, one ANNOUNCE
batch and one request in the transmit queue; four collisions only in HALTED, where no frame is on the line;
a frame is assembled only while the receiver receives. -/
def LinkSound (s : State) : Prop :=
  keyCount s.link.queue (fun k => decide (k = .beacon)) ≤ 1
  ∧ keyCount s.link.queue (fun k => decide (k = .syncDone)) ≤ 1
  ∧ keyCount s.link.queue (fun k => decide (k = .announce)) ≤ 1
  ∧ keyCount s.link.queue (fun k => decide (k = .join) || decide (k = .syncRequest)) ≤ 1
  ∧ s.link.collisions ≤ 4
  ∧ (s.link.collisions = 4 → s.station = .halted)
  ∧ (s.station = .halted → s.link.onLine = none)
  ∧ (s.link.assembly ≠ [] → s.link.receiver = .receiving)

/-- SETUP holds no plan, no claim and no link traffic (R17, R107, R128, R165). -/
def SetupClean (s : State) : Prop :=
  s.station = .setup →
    s.plans.records = [] ∧ s.table = [] ∧ s.seq.current = none ∧ s.link.queue = [] ∧ s.link.onLine = none
    ∧ s.link.assembly = []

/-! ### The ending of the current plan -/

/-- A laser message that turns the laser off goes out where it was on, its head number open (R64). -/
def OffSent (s t : State) : Prop :=
  if s.seq.laser = .off then t.drive = s.drive ∧ t.free = s.free
  else ∃ h : BitVec 4,
    t.drive = { s.drive with sent := s.drive.sent ++ [.drive h false 0] } ∧ t.free = s.free + 1

/-- The record as its ending at `now` leaves it (R49). -/
def endedRecord (x : Record) (o : PlanOutcome) (now : Time) (report : Option Report)
    (cal : Option CalResult) (fault : Option Time) (pendingRelease : Bool) : Record :=
  { x with state := .finished, cancel := none, outcome := some o, finishStamp := some now, hint := none,
           report := report, calResult := cal, faultStamp := fault, releasePending := pendingRelease }

/-- What the ending of the current plan `r` leaves where no trim step and no marking follows: the laser off,
the record finished now, a RELEASE at the finish stamp exactly where that is before the window end, the
burst and the search absent, the sequencer idle, and the rest of the station as it was (R49, R50, R78). -/
def PlanEnded (s : State) (r : Record) (o : PlanOutcome) (fault : Option Time) (report : Option Report)
    (cal : Option CalResult) (t : State) : Prop :=
  t = { s with
        plans := t.plans, drive := t.drive, free := t.free, burst := none, search := none,
        seq := { current := none, profile := none, captured := none, position := none, firstStep := false,
                 laser := .off, wfault := s.seq.wfault, overrun := none },
        link := { s.link with
          queue := s.link.queue
            ++ (if timeBefore s.now r.windowEnd then [TxEntry.release r.claim s.now] else []) } }
  ∧ t.plans = { s.plans with
        records := s.plans.records.map (fun x =>
          if x.tag = r.tag then
            endedRecord x o s.now report cal fault (timeBefore s.now r.windowEnd)
          else x),
        finished := s.plans.finished ++ [r.tag] }
  ∧ OffSent s t

/-! ### Endings that a fence, a marking or a report brings -/

/-- Every record that satisfies a test finishes now with one outcome, in acceptance order: the CLAIM of a
QUEUED one leaves the transmit queue, a GRANTED one has a RELEASE at its window start (R49, R59, R86). -/
def GroupEnded (s : State) (o : PlanOutcome) (hit : Record → Bool) : State :=
  let ended := s.plans.records.filter hit
  let withdrawn : TxKey → Bool := fun k =>
    ended.any (fun r => decide (r.state = .queued) && decide (k = .claim r.claim))
  { s with
    plans := { s.plans with
      records := s.plans.records.map (fun r =>
        if hit r then endedRecord r o s.now none none none (decide (r.state = .granted)) else r),
      finished := s.plans.finished ++ ended.map Record.tag },
    link := { s.link with
      queue := s.link.queue.filter (fun e => !withdrawn e.key)
        ++ (ended.filter (fun r => decide (r.state = .granted))).map
          (fun r => TxEntry.release r.claim r.windowStart),
      collisions := if s.link.collided.any withdrawn then 0 else s.link.collisions,
      collided := if s.link.collided.any withdrawn then none else s.link.collided } }

/-- The WRITE records that finish where a head turns SUSPECT: QUEUED and GRANTED ones on it (R86). -/
def Siblings (head : Nat) (r : Record) : Bool :=
  decide (r.kind = .write) && decide (r.head = head)
  && (decide (r.state = .queued) || decide (r.state = .granted))

/-- The trim that the tallies of a report ask for (R95). -/
def AskedTrim (trim : Int) (m : Report) : Int :=
  if m.high < m.low then trim + 1 else if m.low < m.high then trim - 1 else trim

/-- A report makes its head SUSPECT: class LOSS, or class MARGINAL with a trim step past ±31 while TRIM is
held (R95, R96). -/
def Distrusts (s : State) (h : HeadRecord) (m : Report) : Prop :=
  m.cls = .loss
  ∨ (m.cls = .marginal ∧ s.restrictions.trim = false ∧ m.low ≠ m.high
      ∧ (AskedTrim h.trim m < -31 ∨ 31 < AskedTrim h.trim m))

/-- A head record after a report: SUSPECT, one trim step, or as it was (R95, R96, R126). -/
def HeadAfter (s : State) (h : HeadRecord) (m : Report) (suspect : Bool) : HeadRecord :=
  if suspect then { h with state := .suspect }
  else if m.cls = .marginal ∧ s.restrictions.trim = false then { h with trim := AskedTrim h.trim m }
  else h

/-- What the report of a finished burst leaves: the head record, and where the head turns SUSPECT its other
QUEUED and GRANTED WRITE records finished HEAD_SUSPECT (R86, R95, R96). -/
def AfterReport (s : State) (head : Nat) (h : HeadRecord) (m : Report) (suspect : Bool) : State :=
  let s1 := { s with heads := s.heads.set head (HeadAfter s h m suspect) }
  if suspect then GroupEnded s1 .headSuspect (Siblings head) else s1

/-- The command c ends the current plan r of s: the ending is that of PlanEnded at u, and what the report brings
follows it, nothing where its class is CLEAN or DRIFT (R78, R95, R96). -/
def EndsPlan (c : Instr) (s u : State) (r : Record) (o : PlanOutcome) (fault : Option Time)
    (report : Option Report) (cal : Option CalResult) : Prop :=
  ∃ t, exec c s = .next (t.afterBurst r.head report) ∧ PlanEnded u r o fault report cal t
    ∧ ((∀ x, report = some x → x.cls = .clean ∨ x.cls = .drift) → exec c s = .next t)

/-! ### Checks in order -/

/-- A value is that of the first row whose condition holds. -/
def FirstOf {α : Type} (rows : List (Prop × α)) (v : α) : Prop :=
  ∃ pre c post, rows = pre ++ (c, v) :: post ∧ c ∧ ∀ x ∈ pre, ¬ x.1

/-! ### Events of the clock -/

/-- A pending swap is due: the station takes events and executes no plan (R108). -/
def SwapDue (s : State) : Prop :=
  s.pins.rstn = true ∧ s.station ≠ .halted ∧ s.store.standbyBank.state = .swapPending
  ∧ s.seq.current = none

/-- No GRANTED record's window opens before the time t (R4, R68, R79). -/
def OpensInTurn (s : State) (t : Time) : Prop :=
  ∀ r ∈ s.plans.records, r.state = .granted →
    (∀ p, r.kind = .write → s.store.activeBank.profile r.zone = some p →
      timeBefore (timeMinus r.planStart p.lead) t = false)
    ∧ (r.kind = .cal → timeBefore r.windowStart t = false)

/-- The byte x ends a whole frame at a receiver: the trailer 0x95 (R130), at the place that LEN gives it where a
frame is being assembled (log 38). -/
def EndsFrame (l : Link) (x : Byte) : Prop :=
  x = 0x95 ∧ (l.receiver = .receiving →
    l.assembly.length = 5 + ((l.assembly.map RxByte.value).getD 3 0).toNat)

/-- The clock event `c` is outstanding, at the time `t`: the transmit deadline of a QUEUED record (R46); the
opening of a GRANTED one while no plan executes (R68, R79); the write-start deadline, write deadline,
window end or step end of the current plan by its state (R73, R75, R76, R80); the hold of a running clock
at angle 4095 (R3). -/
def ClockEvent (s : State) (t : Time) (c : Instr) : Prop :=
  (s.pins.rstn = true ∧ s.station ≠ .halted ∧
    ((∃ r ∈ s.plans.records, r.state = .queued ∧ c = .transmitDeadline r.tag
        ∧ t = timeMinus r.windowStart 512)
      ∨ (s.seq.current = none ∧ ∃ r ∈ s.plans.records, r.state = .granted ∧
          ((∃ p, r.kind = .write ∧ s.store.activeBank.profile r.zone = some p
              ∧ c = .writeWindowOpens r.tag s.pins.railAlert ∧ t = timeMinus r.planStart p.lead)
            ∨ (r.kind = .cal ∧ c = .calWindowOpens r.tag s.pins.railAlert ∧ t = r.windowStart)))
      ∨ (∃ tag r, s.seq.current = some tag ∧ s.plans.find tag = some r ∧
          ((∃ p, s.seq.profile = some p
              ∧ (r.state = .preheat ∨ r.state = .ready ∨ r.state = .paused .preheat
                ∨ r.state = .paused .ready)
              ∧ c = .writeStartDeadline
              ∧ t = timeEarlier (timePlus r.planStart s.config.lateTol)
                  (timeMinus r.windowEnd p.tailAllowance))
            ∨ (∃ p, s.seq.profile = some p ∧ (r.state = .writing ∨ r.state = .paused .writing)
              ∧ c = .writeDeadline ∧ t = timeMinus r.windowEnd p.tailAllowance)
            ∨ (r.state = .tail ∧ c = .windowEndReached ∧ t = r.windowEnd)
            ∨ (∃ x, s.search = some x ∧ r.state = .calibrating
              ∧ c = .calibrationStepEnd s.pins.monlo s.pins.monhi
              ∧ t = timePlus r.windowStart (x.step * (s.config.calLength / 20)))))))
  ∨ (s.clock.valid = true ∧ s.clock.hold = false ∧ c = .clockHold
    ∧ t = s.clock.revolution ++ (4095#12))

/-! ### What requests carry, and the conditions their statements name -/

/-- A bank erased (R99). -/
def ErasedBank : Bank :=
  { state := .empty, samples := [], descriptors := List.replicate 64 { first := 0, count := 0 },
    profiles := List.replicate 16 none }

/-- The 19 bytes of a CONFIGURE request in the order of Table 10-5, two-byte items low byte first. -/
def Configuration.bytes (c : Configuration) : List Byte :=
  byte2 c.bTotal ++ byte1 c.headCount ++ byte1 c.linkRate ++ byte2 c.lMax ++ byte2 c.gMin
  ++ byte1 c.lateTol ++ byte1 c.stepDuration ++ byte1 c.monitorWindow ++ byte1 c.deviationThreshold
  ++ byte2 c.calLength ++ byte1 c.calLevel ++ byte1 c.thresholdReference ++ byte1 c.writeReference
  ++ byte1 (fenceCode c.fence.side) ++ byte1 c.fence.extent

/-- Every item fits in the bytes Table 10-5 gives it. -/
def Configuration.Fits (c : Configuration) : Prop :=
  c.bTotal < 65536 ∧ c.headCount < 256 ∧ c.linkRate < 256 ∧ c.lMax < 65536 ∧ c.gMin < 65536
  ∧ c.lateTol < 256 ∧ c.stepDuration < 256 ∧ c.monitorWindow < 256 ∧ c.deviationThreshold < 256
  ∧ c.calLength < 65536 ∧ c.calLevel < 256 ∧ c.thresholdReference < 256 ∧ c.writeReference < 256
  ∧ c.fence.extent < 256

/-- The items are in the ranges of Table 10-5 and agree (R166). -/
def Configuration.InRange (c : Configuration) : Prop :=
  (1 ≤ c.bTotal ∧ c.bTotal ≤ 1023) ∧ (1 ≤ c.headCount ∧ c.headCount ≤ 16)
  ∧ (c.linkRate = 1 ∨ c.linkRate = 2 ∨ c.linkRate = 4 ∨ c.linkRate = 8)
  ∧ (1 ≤ c.lMax ∧ c.lMax ≤ 3568) ∧ c.gMin ≤ 1023 ∧ c.lateTol ≤ 255
  ∧ (1 ≤ c.stepDuration ∧ c.stepDuration ≤ 255) ∧ (1 ≤ c.monitorWindow ∧ c.monitorWindow ≤ 127)
  ∧ (1 ≤ c.deviationThreshold ∧ c.deviationThreshold ≤ 14)
  ∧ (80 ≤ c.calLength ∧ c.calLength ≤ 1600) ∧ (1 ≤ c.calLevel ∧ c.calLevel ≤ 255)
  ∧ c.thresholdReference ≤ 255 ∧ c.writeReference ≤ 255 ∧ c.fence.extent ≤ 16
  ∧ (c.fence.side = .none → c.fence.extent = 0) ∧ c.lateTol ≤ c.lMax ∧ c.gMin ≤ c.lMax

/-- A requested fence is a widening of the fence held (R168). -/
def Widening (held req : Fence) : Prop :=
  req = held ∨ (held.side = .none ∧ req.side ≠ .none)
  ∨ (req.side = held.side ∧ held.extent < req.extent)

/-- A zone lies in a fence (R41). -/
def Fenced (f : Fence) (zone : Nat) : Prop :=
  (f.side = .low ∧ zone < f.extent) ∨ (f.side = .high ∧ 16 - f.extent ≤ zone)

/-- A record passes the check of a swap against a bank (R109). -/
def PassesSwap (b : Bank) (r : Record) : Prop :=
  ∃ p, b.profile r.zone = some p ∧ p.level ≤ r.level ∧ p.lead ≤ r.lead
    ∧ p.tailAllowance ≤ r.tailAllowance

/-- A new window keeps R42 towards the records of the queue: it overlaps no live window, and every gap to a
live window on its head is at least the configured G_min. -/
def WindowKept (gMin : Nat) (records : List Record) (head : Nat) (ws we : Time) : Prop :=
  ∀ x ∈ records, x.live = true →
    windowsOverlap ws we x.windowStart x.windowEnd = false
    ∧ (x.head = head →
        (timeBefore ws x.windowEnd = true → (gMin : Int) ≤ timeDiff x.windowStart we)
        ∧ (timeBefore ws x.windowEnd = false → (gMin : Int) ≤ timeDiff ws x.windowEnd))

/-- A claim number is the lowest that no live record and no record with a release pending holds (R43). -/
def LowestFree (records : List Record) (n : Nat) : Prop :=
  (∀ r ∈ records, ClaimHeld r → r.claim ≠ n) ∧ ∀ m < n, ∃ r ∈ records, ClaimHeld r ∧ r.claim = m

/-- The current plan of a station that takes events: RSTn is high, the station is not HALTED, and the record
in execution is `r` (R39, R85, R174). -/
def Executing (s : State) (r : Record) : Prop :=
  s.pins.rstn = true ∧ s.station ≠ .halted ∧ s.seq.current = some r.tag
  ∧ s.plans.find r.tag = some r

/-- The next plan-port reply of a request of kind `k`. -/
def Replied (s : State) (k : Byte) (r : Result) (p : List Byte) : State :=
  { s with reply := some { kind := k, result := r, payload := p } }

/-- A written cause is taken where the record holds none; else the further-faults flag is set (R170). -/
def FaultWritten (f : FaultRecord) (c : FaultCause) (stamp : Time) : FaultRecord :=
  if f.cause = none then { f with cause := some c, stamp := stamp } else { f with further := true }

/-- The table after the purge at a stamp: the entries whose window end is after it (R20). -/
def Purged (table : List Entry) (stamp : Time) : List Entry :=
  table.filter (fun e => decide (0 < timeDiff e.windowEnd stamp))

/-- A CLAIM's fields are within the limits of R21, and the purged table holds no entry of its name. -/
def ClaimInLimits (table : List Entry) (n : Station) (stamp : Time) (number : Nat) (ws we : Time)
    (level : Nat) : Prop :=
  number ≤ 15 ∧ 1 ≤ level ∧ 512 ≤ timeDiff ws stamp ∧ timeDiff ws stamp ≤ 8192
  ∧ 1 ≤ timeDiff we ws ∧ timeDiff we ws ≤ 3584
  ∧ ∀ e ∈ Purged table stamp, ¬(e.station = n ∧ e.number = number)

/-- The purged table has room for a window: fewer than 32 entries, and at every instant of the window the load
plus the level within B_total (R22). -/
def Room (table : List Entry) (bTotal : Nat) (stamp ws we : Time) (level : Nat) : Prop :=
  (Purged table stamp).length < 32
  ∧ ∀ t, windowContains ws we t = true → loadAt (Purged table stamp) t + level ≤ bTotal

/-- The station takes frames from its peers: RSTn high, in JOINING or ACTIVE, no frame of its own on the line,
the receiver neither waiting nor discarding (R19, R136). -/
def TakingFrames (s : State) : Prop :=
  s.pins.rstn = true ∧ (s.station = .joining ∨ s.station = .active) ∧ s.link.onLine = none
  ∧ (s.link.receiver = .idle ∨ s.link.receiver = .receiving)

/-- The link after a frame of another unit has ended (R132, R136). -/
def FrameEnded (l : Link) : Link :=
  { l with receiver := .idle, assembly := [], postSend := false, idleCount := 0 }

/-- A request of the station joins the transmit queue unless a JOIN or SYNC-REQUEST waits there (R139). -/
def RequestQueued (q : List TxEntry) (e : TxEntry) : List TxEntry :=
  if q.any (fun x => decide (x.key = .join) || decide (x.key = .syncRequest)) then q else q ++ [e]

/-- The Peer Block with the entry of a station replaced. -/
def WithEntry (p : PeerBlock) (n : Station) (e : PeerEntry) : PeerBlock :=
  { p with table := p.table.set n.toNat e }

/-- The laser messages of a change of output: none where it equals the output last sent (R64). -/
def DriveSent (s : State) (head code : Nat) : List DriveMessage :=
  if s.seq.laser = .on head code then [] else [.drive (BitVec.ofNat 4 head) true code]

/-- The reference messages of a pair: none where it equals the pair last sent (R89, R120). -/
def PairSent (s : State) (low high : Nat) : List DriveMessage :=
  if s.drive.references = some (low, high) then [] else [.references low high]

/-- The report of the open burst gives no trim step and no marking: its class is CLEAN or DRIFT (R95, R96). -/
def NoCorrection (s : State) (report : Option Report) : Prop :=
  report = s.burst.map (fun b => b.report s.config.deviationThreshold)
  ∧ ∀ x, report = some x → x.cls = .clean ∨ x.cls = .drift

/-- A waiting CLAIM that may not start: its window start is less than 512 after the stamp, or the station is
ACTIVE and not IN_SYNC or in QUIET (Table 8-4, R133). -/
def HeldBack (s : State) (e : TxEntry) : Prop :=
  ∃ n k ws we l, e = .claim n k ws we l
    ∧ (timeDiff ws s.now < 512 ∨ (s.station = .active ∧ (s.peers.sync ≠ .inSync ∨ s.peers.quiet ≠ none)))

/-- The station's wait on the idle line has ended and no frame is in its way: 32 + 4 N idle bit times, or 72
after a frame of its own (R132). -/
def WaitEnded (s : State) (idle : Nat) : Prop :=
  s.pins.rstn = true ∧ s.link.onLine = none ∧ s.link.receiver ≠ .receiving
  ∧ (if s.link.postSend then 72 else 32 + 4 * s.number.toNat) ≤ idle

/-- The link with a frame of the station's own on the line and the queue as given (R132, R133). -/
def Sending (l : Link) (q : List TxEntry) (f : LinkFrame) : Link :=
  { l with queue := q, onLine := some { frame := f, discard := false }, bit := 0, receiver := .idle,
           assembly := [], postSend := false, idleCount := 0 }

/-- The link after a frame of the station's own has completed, the queue as given (R132, R133). -/
def Sent (l : Link) (q : List TxEntry) : Link :=
  { l with queue := q, onLine := none, collisions := 0, collided := none, postSend := true,
           idleCount := 0 }

/-- The link after a counted collision (R134, R135). -/
def Collided (l : Link) (e : TxEntry) : Link :=
  { l with onLine := none, receiver := .receiving, collisions := l.collisions + 1,
           collided := some e.key, postSend := true, idleCount := 0 }

/-- An entry leaves the transmit queue unsent; where it collided last, the count clears (R135). -/
def Unsent (l : Link) (k : TxKey) : Link :=
  { l with queue := l.queue.filter (fun e => decide (e.key ≠ k)),
           collisions := if l.collided = some k then 0 else l.collisions,
           collided := if l.collided = some k then none else l.collided }

/-- A resynchronisation given up: the table keeps the own entries, the station is DESYNC with a request
pending, the SYNC-DONE unsent (R157, R27). -/
def GivenUp (s : State) : State :=
  { s with
    table := s.table.filter (fun e => decide (e.station = s.number)),
    peers := { s.peers with
      sync := .desync, requester := false, awaited := [], reRequest := true,
      table := s.peers.table.map (fun e => { e with announced := false }) },
    link := Unsent s.link .syncDone }

/-- A trigger of R153 at a station: from IN_SYNC it goes to DESYNC with a SYNC-REQUEST queued. -/
def Desynced (s : State) (trigger : Bool) : State :=
  if trigger = true ∧ s.peers.sync = .inSync then
    { s with peers := { s.peers with sync := .desync },
             link := { s.link with queue := RequestQueued s.link.queue .syncRequest } }
  else s

/-! ### INDEX pulses -/

/-- The clock after an INDEX pulse (R2, log 2). -/
def ClockPulsed (c : Clock) (interval : Nat) : Clock :=
  { revolution := c.revolution + 1, angle := 0, hold := false, pulseSeen := true, valid := c.pulseSeen,
    period := if c.pulseSeen then some interval else none }

/-- A Peer Table entry after a pulse: one more revolution without a frame, LOST at the fourth (R145). -/
def EntryPulsed (e : PeerEntry) : PeerEntry :=
  if e.state = .joining ∨ e.state = .active then
    if e.lastHeard < 3 then { e with lastHeard := e.lastHeard + 1 }
    else { e with state := .lost, lastHeard := 4 }
  else e

/-- An entry joins the transmit queue unless it waits there (R139). -/
def AddedOnce (q : List TxEntry) (e : TxEntry) : List TxEntry := if e ∈ q then q else q ++ [e]

/-- What a pulse leaves in LISTEN, JOINING and ACTIVE where LISTEN does not end at it and no resynchronisation is
given up: the clock (R2); the last-heard counts, LOST peers out of the awaited set, the SYNC-DONE queued where
that completes it (R145, R155); the pulse counts, QUIET ended at its second (R148, R157, R159); the pending
re-request (R157), and in ACTIVE the BEACON (R152). -/
def Pulsed (s : State) (interval : Nat) : State :=
  let table := s.peers.table.map EntryPulsed
  let entry := fun n : Station => table.getD n.toNat PeerEntry.absentEntry
  let awaited := s.peers.awaited.filter (fun n => decide ((entry n).state ≠ .lost))
  let q1 := if s.peers.requester = true ∧ awaited ≠ s.peers.awaited ∧ ∀ n ∈ awaited, (entry n).announced = true
    then AddedOnce s.link.queue .syncDone else s.link.queue
  let q2 := if s.peers.reRequest then RequestQueued q1 (if s.station = .joining then .join else .syncRequest)
    else q1
  { s with
    clock := ClockPulsed s.clock interval,
    peers := { s.peers with
      table := table, awaited := awaited, reRequest := false,
      listenPulses := if s.station = .listen then s.peers.listenPulses + 1 else s.peers.listenPulses,
      quiet := if 1 ≤ s.peers.quietPulses then none else s.peers.quiet,
      quietPulses := if s.peers.quiet ≠ none then min (s.peers.quietPulses + 1) 2 else s.peers.quietPulses,
      requesterPulses := if s.peers.requester then min (s.peers.requesterPulses + 1) 2
        else s.peers.requesterPulses },
    link := { s.link with queue := if s.station = .active then AddedOnce q2 .beacon else q2 } }

/-- A resynchronisation times out at the next pulse: the second one of the requester, its SYNC-DONE not on the
line (R157). -/
def TimesOut (s : State) : Prop :=
  s.peers.requester = true ∧ 1 ≤ s.peers.requesterPulses
  ∧ ∀ stamp d b, s.link.onLine ≠ some ⟨.syncDone stamp d, b⟩

/-- An own ANNOUNCE batch is asked for: it joins the queue; one that waits serves; one that has started is
marked for repeat (R141). -/
def BatchRequested (q : List TxEntry) : List TxEntry :=
  if q.any (fun e => decide (e.key = .announce)) then
    q.map (fun e => match e with
      | .announce (some fs) _ => .announce (some fs) true
      | e => e)
  else q ++ [.announce none false]

/-- The table after a RELEASE: the sender's entry goes where the release stamp is at or before its window
start, else its window ends at the earlier of window end and release stamp (Table 2-4). -/
def Released (table : List Entry) (n : Station) (number : Nat) (x : Time) : List Entry :=
  table.filterMap (fun e =>
    if e.station = n ∧ e.number = number then
      if timeDiff x e.windowStart ≤ 0 then none
      else some { e with windowEnd := if timeDiff e.windowEnd x < 0 then e.windowEnd else x }
    else some e)

/-- An announced entry passes the tests of R34 at a table. -/
def Insertable (table : List Entry) (bTotal : Nat) (n : Station) (a : AnnounceEntry) : Prop :=
  (∀ e ∈ table, ¬(e.station = n ∧ e.number = a.number.toNat))
  ∧ a.number.toNat ≤ 15 ∧ (a.kind = 0 ∨ a.kind = 1) ∧ a.level ≠ 0
  ∧ 1 ≤ timeDiff a.windowEnd a.windowStart ∧ timeDiff a.windowEnd a.windowStart ≤ 3584
  ∧ table.length < 32
  ∧ ∀ t, windowContains a.windowStart a.windowEnd t = true → loadAt table t + a.level.toNat ≤ bTotal

/-- The Share Table entry an announced entry becomes (R34). -/
def EntryOf (n : Station) (a : AnnounceEntry) : Entry :=
  { station := n, number := a.number.toNat, windowStart := a.windowStart, windowEnd := a.windowEnd,
    level := a.level.toNat, kind := if a.kind = 0 then .write else .cal, origin := .announced }

/-- Received bytes that carry one frame whole: the envelope of section 8.2 with its CHECK right, no framing
fault and no gap of more than 20 bit times within it (R136). -/
def FrameReceived (bs : List RxByte) (n : Station) (kind : Byte) (p : List Byte) : Prop :=
  p.length ≤ 32 ∧ (∀ b ∈ bs, b.fault = false) ∧ (∀ b ∈ bs.drop 1, b.gap ≤ 20)
  ∧ ∃ check : Byte,
    bs.map RxByte.value = [0x6A#8, BitVec.ofNat 8 n.toNat, kind, BitVec.ofNat 8 p.length]
      ++ p ++ [check, 0x95#8]
    ∧ (n.toNat + kind.toNat + p.length + (p.map BitVec.toNat).sum + check.toNat) % 256 = 0

/-- The entry of a peer after a frame other than a JOIN (R144). -/
def Heard (e : PeerEntry) : PeerEntry := { e with state := .active, lastHeard := 0 }

/-- What a frame from peer n leaves that changes the table as given, `error` where it has a protocol error: the
error sets DESYNC, or a requester gives up (R21, R24, R153, R157); a sender that was ABSENT or LOST is a trigger
(R153); the sender is ACTIVE with its count 0 (R144). -/
def FrameFrom (s : State) (n : Station) (table : List Entry) (error : Bool) : State :=
  let u : State := { s with link := FrameEnded s.link, table := table }
  let v := if error then (if s.peers.requester then GivenUp u else Desynced u true) else u
  let w := Desynced v (decide ((s.peers.entry n).state = .absent) || decide ((s.peers.entry n).state = .lost))
  { w with peers := WithEntry w.peers n (Heard (w.peers.entry n)) }

/-- No stamp is adopted: the station is ACTIVE, or its JOIN has completed, or a stamp was adopted (R147). -/
def AdoptionClosed (s : State) : Prop :=
  s.station = .active ∨ (s.station = .joining ∧ (s.peers.joinSent = true ∨ s.peers.adopted = true))

end Sys2Proof.Machine
end

