-- ==== Sys2Proof/Certificates/Slice0/Obligations.lean ====
section
/-! DEFINITION. The statements for the provers: the interface, the definitions of the manual, the effect of
every command with its frame, and the laws that every step keeps. -/

open Sys2Proof Sys2Proof.Machine

/-! ### The interface -/

/-- A step takes the command at the front of the queue and runs it with the rest of the queue. -/
def Obligations.StepRunsFrontCommand : Prop :=
  ∀ (c : Instr) (rest : List Instr) (s : State),
    step { s with pending := c :: rest } = exec c { s with pending := rest }

/-- The model's choice (logs 1, 3): on an empty queue a step takes the event that is due; where none is due the
clock advances by one angle unit while it runs below angle 4095, where it holds, and else nothing changes. A
pending swap with no plan executing is due first (R108); else the earliest of the clock events whose time the
clock has reached is due (log 25), those at one time in no order that the manual gives: a transmit deadline
(R46), an opening while no plan executes (R68, R79), a deadline, window end or step end of the current plan
(R73, R75, R76, R80), the hold (R3, R4). Nothing is due while RSTn is low. -/
def Obligations.IdleStepTakesDueEventOrTicks : Prop :=
  ∀ s : State,
    (s.pending = [] →
      (∀ c, s.dueEvent = some c → step s = exec c s)
      ∧ (s.dueEvent = none →
          (s.pins.rstn = true ∧ s.clock.valid = true ∧ s.clock.hold = false ∧ s.clock.angle ≠ 4095 →
            step s = .next { s with clock :=
              { s.clock with angle := s.clock.angle + 1, hold := decide (s.clock.angle = 4094) } })
          ∧ (s.pins.rstn = false ∨ s.clock.valid = false ∨ s.clock.hold = true ∨ s.clock.angle = 4095 →
            step s = .next s)))
    ∧ (SwapDue s → s.dueEvent = some .swapResolution)
    ∧ (s.pins.rstn = true → ¬ SwapDue s →
        (∀ c, s.dueEvent = some c → ∃ t, ClockEvent s t c ∧ 0 ≤ timeDiff s.now t
          ∧ ∀ t' c', ClockEvent s t' c' → 0 ≤ timeDiff s.now t' → timeBefore t' t = false)
        ∧ ((∃ t c, ClockEvent s t c ∧ 0 ≤ timeDiff s.now t) → s.dueEvent ≠ none))
    ∧ (s.pins.rstn = false → s.dueEvent = none)

/-- Every command, in every state, answers a next state, and leaves the queue of waiting commands as it is.
Model's choices: log 6. -/
def Obligations.EveryCommandAnswersAndKeepsQueue : Prop :=
  ∀ (c : Instr) (s : State), ∃ t, exec c s = .next t ∧ t.pending = s.pending

/-! ### Rotational time, windows, table, formats -/

/-- R5: rotational time as revolution × 4096 + angle, durations modulo 1048576, a record's window. -/
def Obligations.RotationalTimeArithmetic : Prop :=
  (∀ s : State, s.now.toNat = s.clock.revolution.toNat * 4096 + s.clock.angle.toNat
      ∧ s.now.toNat ≤ 1048575)
  ∧ (∀ c d : Clock, d.angle = c.angle → d.revolution.toNat = (c.revolution.toNat + 256) % 256 →
      d.now = c.now)
  ∧ (∀ (t : Time) (d : Nat), (timePlus t d).toNat = (t.toNat + d) % 1048576)
  ∧ (∀ (t : Time) (d : Nat), ((timeMinus t d).toNat + d) % 1048576 = t.toNat)
  ∧ (∀ (q : PlanQueue) (k : PlanKind) (x : PostRequest) (lead tail level : Nat),
      (newRecord q k x lead tail level).windowStart
        = timeMinus (newRecord q k x lead tail level).planStart lead
      ∧ (newRecord q k x lead tail level).windowEnd
        = timePlus (newRecord q k x lead tail level).windowStart (lead + x.length + tail))
  ∧ timePlus (BitVec.ofNat 20 (255 * 4096 + 4000)) 200 = BitVec.ofNat 20 104

/-- R6: times are compared by their modular difference, in −524288..+524287. -/
def Obligations.TimesComparedModularly : Prop :=
  ∀ a b : Time,
    (((a.toNat + 1048576 - b.toNat) % 1048576 < 524288 →
        timeDiff a b = (((a.toNat + 1048576 - b.toNat) % 1048576 : Nat) : Int))
      ∧ (524288 ≤ (a.toNat + 1048576 - b.toNat) % 1048576 →
        timeDiff a b = (((a.toNat + 1048576 - b.toNat) % 1048576 : Nat) : Int) - 1048576))
    ∧ (timeAfter a b = true ↔ 0 < timeDiff a b)
    ∧ (a = b ↔ timeDiff a b = 0)
    ∧ (timeBefore a b = true ↔ timeDiff a b < 0)
    ∧ (timeAtOrBefore a b = true ↔ timeDiff a b ≤ 0)
    ∧ timeEarlier a b = (if timeDiff a b < 0 then a else b)
    ∧ ((a.toNat + 1048576 - b.toNat) % 1048576 = 524288 →
        timeDiff a b = -524288 ∧ timeBefore a b = true)

/-- Windows are half-open; for spans in the part's limits and starts within 64 revolutions of one another the
overlap test says exactly that some instant lies in both (R7). -/
def Obligations.WindowsOverlapExactlyWhereAnInstantLiesInBoth : Prop :=
  (∀ ws we t : Time, windowContains ws we t = true ↔ 0 ≤ timeDiff t ws ∧ timeDiff t we < 0)
  ∧ (∀ ws we : Time, windowContains ws we we = false)
  ∧ (∀ ws t : Time, windowContains ws ws t = false)
  ∧ (∀ ws we ve : Time, windowsOverlap ws we we ve = false)
  ∧ (∀ ws we vs ve : Time, 0 ≤ timeDiff we ws → timeDiff we ws ≤ 3584 →
      0 ≤ timeDiff ve vs → timeDiff ve vs ≤ 3584 →
      -262144 ≤ timeDiff ws vs → timeDiff ws vs ≤ 262144 →
      (windowsOverlap ws we vs ve = true
        ↔ ∃ t, windowContains ws we t = true ∧ windowContains vs ve t = true))

/-- R30: the digest, its value on the empty table, and what it does not depend on. -/
def Obligations.DigestIsSumOfEntryTerms : Prop :=
  (∀ table : List Entry,
    (digest table).toNat =
      ((table.map (fun e => (e.station.toNat * 4096 + e.number * 256 + e.level)
        + e.windowStart.toNat % 65536 + e.windowEnd.toNat % 65536)).sum) % 65536)
  ∧ digest [] = 0
  ∧ (∀ t u : List Entry, t.Perm u → digest t = digest u)
  ∧ (∀ (t : List Entry) (k : Entry → PlanKind) (o : Entry → Origin),
      digest (t.map (fun e => { e with kind := k e, origin := o e })) = digest t)
  ∧ (∀ (t u : List Entry) (e f : Entry), e.digestTerm % 65536 ≠ f.digestTerm % 65536 →
      digest (t ++ e :: u) ≠ digest (t ++ f :: u))

/-- The budget test at the points of section 2.3 gives what the instant-by-instant rule of R18 and R22
defines, for every table and window with spans in 1..3584. -/
def Obligations.BudgetTestIsInstantByInstant : Prop :=
  ∀ (table : List Entry) (bTotal : Nat) (ws we : Time) (level : Nat),
    (∀ e ∈ table, 1 ≤ timeDiff e.windowEnd e.windowStart ∧ timeDiff e.windowEnd e.windowStart ≤ 3584) →
    1 ≤ timeDiff we ws → timeDiff we ws ≤ 3584 →
    (fitsBudget table bTotal ws we level = true
      ↔ ∀ t, windowContains ws we t = true → loadAt table t + level ≤ bTotal)

/-- The hint is a candidate start (the requested window start or a window end after it) that fits the table
as R28 says and is at or before now + 8192, and no such candidate is nearer; it is absent where there is
none. -/
def Obligations.HintIsNearestFittingCandidate : Prop :=
  ∀ (table : List Entry) (bTotal : Nat) (now ws we : Time) (level : Nat) (allowed : Time → Prop),
    (∀ e ∈ table, 1 ≤ timeDiff e.windowEnd e.windowStart ∧ timeDiff e.windowEnd e.windowStart ≤ 3584) →
    1 ≤ timeDiff we ws → timeDiff we ws ≤ 3584 →
    (∀ c, allowed c ↔
      (c = ws ∨ (0 < timeDiff c ws ∧ ∃ e ∈ table, e.windowEnd = c)) ∧ table.length < 32
      ∧ (∀ t, windowContains c (c + (we - ws)) t = true → loadAt table t + level ≤ bTotal)
      ∧ timeDiff c (timePlus now 8192) ≤ 0) →
    (∀ h, hintFor table bTotal now ws we level = some h →
      allowed h ∧ ∀ c, allowed c → timeDiff h ws ≤ timeDiff c ws)
    ∧ (hintFor table bTotal now ws we level = none → ∀ c, ¬ allowed c)

/-- R92: quarter counts saturate at 15, tallies at 255, and a burst once at 15 stays LOSS; the quarter is that
of the step's time (R91), the effect that of Table 5-3. -/
def Obligations.MonitorCountsSaturate : Prop :=
  ∀ (b : Burst) (t : Time) (lo hi : Bool) (threshold : Nat),
    (∀ q : Nat, q = (if timeBefore t b.boundary1 then 0 else if timeBefore t b.boundary2 then 1
        else if timeBefore t b.boundary3 then 2 else 3) →
      (b.reading t lo hi).q0 = (if (lo || hi) && decide (q = 0) then min (b.q0 + 1) 15 else b.q0)
      ∧ (b.reading t lo hi).q1 = (if (lo || hi) && decide (q = 1) then min (b.q1 + 1) 15 else b.q1)
      ∧ (b.reading t lo hi).q2 = (if (lo || hi) && decide (q = 2) then min (b.q2 + 1) 15 else b.q2)
      ∧ (b.reading t lo hi).q3 = (if (lo || hi) && decide (q = 3) then min (b.q3 + 1) 15 else b.q3))
    ∧ (b.reading t lo hi).low = (if lo then min (b.low + 1) 255 else b.low)
    ∧ (b.reading t lo hi).high = (if hi then min (b.high + 1) 255 else b.high)
    ∧ (b.q0 = 15 ∨ b.q1 = 15 ∨ b.q2 = 15 ∨ b.q3 = 15 →
        ((b.reading t lo hi).report threshold).cls = .loss)

/-- R130: the envelope of every link frame, with the codes and sizes of Table 8-2; what a station puts on the
line is the envelope of its frame with its own number as SENDER, ten bit times a byte (R128), and nothing
where no frame is in progress. The payload of each kind holds its fields in the order of Table 11-3, each low
byte first (R176, R177), with the codes of Table 11-1. -/
def Obligations.LinkFrameEnvelope : Prop :=
  (∀ (f : LinkFrame) (sender : Station),
    (∀ final es, f = .announce final es → es.length ≤ 3) →
    ∃ (size : Nat) (kind check : Byte),
      (match f with
        | .join _ _ => kind = 0x01 ∧ size = 8
        | .beacon _ _ _ _ => kind = 0x02 ∧ size = 7
        | .claim _ _ _ _ _ _ => kind = 0x03 ∧ size = 12
        | .release _ _ _ => kind = 0x04 ∧ size = 7
        | .syncRequest => kind = 0x05 ∧ size = 0
        | .announce _ es => kind = 0x06 ∧ size = 1 + 9 * es.length
        | .syncDone _ _ => kind = 0x07 ∧ size = 5)
      ∧ f.payload.length = size
      ∧ f.bytes sender = [0x6A#8, BitVec.ofNat 8 sender.toNat, kind, BitVec.ofNat 8 size]
          ++ f.payload ++ [check, 0x95#8]
      ∧ (sender.toNat + kind.toNat + size + (f.payload.map BitVec.toNat).sum + check.toNat) % 256 = 0)
  ∧ (∀ s : State,
      (s.link.onLine = none → s.frameBits = [])
      ∧ ∀ o, s.link.onLine = some o →
        s.frameBits = (o.frame.bytes s.number).flatMap (fun x =>
          [false, x.getLsbD 0, x.getLsbD 1, x.getLsbD 2, x.getLsbD 3, x.getLsbD 4, x.getLsbD 5,
            x.getLsbD 6, x.getLsbD 7, true]))
  ∧ (∀ n, byte2 n = [BitVec.ofNat 8 n, BitVec.ofNat 8 (n / 256)])
  ∧ (∀ n, byte4 n = byte2 n ++ byte2 (n / 65536))
  ∧ (∀ t : Time, timeBytes t = byte2 t.toNat ++ [BitVec.ofNat 8 (t.toNat / 65536)])
  ∧ (∀ kind : PlanKind → Byte, kind .write = 0 → kind .cal = 1 →
      (∀ stamp unit, (LinkFrame.join stamp unit).payload = timeBytes stamp ++ byte4 unit.toNat ++ [1])
      ∧ (∀ stamp d n, (LinkFrame.beacon stamp d n .none).payload
            = timeBytes stamp ++ byte2 d.toNat ++ [BitVec.ofNat 8 n, 0]
          ∧ (LinkFrame.beacon stamp d n .inSync).payload
            = timeBytes stamp ++ byte2 d.toNat ++ [BitVec.ofNat 8 n, 1]
          ∧ (LinkFrame.beacon stamp d n .desync).payload
            = timeBytes stamp ++ byte2 d.toNat ++ [BitVec.ofNat 8 n, 2]
          ∧ (LinkFrame.beacon stamp d n .resyncing).payload
            = timeBytes stamp ++ byte2 d.toNat ++ [BitVec.ofNat 8 n, 3])
      ∧ (∀ stamp n k ws we level, (LinkFrame.claim stamp n k ws we level).payload
          = timeBytes stamp ++ [BitVec.ofNat 8 n, kind k] ++ timeBytes ws ++ timeBytes we
            ++ [BitVec.ofNat 8 level])
      ∧ (∀ stamp n x, (LinkFrame.release stamp n x).payload
          = timeBytes stamp ++ [BitVec.ofNat 8 n] ++ timeBytes x)
      ∧ LinkFrame.syncRequest.payload = []
      ∧ (∀ final es, (LinkFrame.announce final es).payload
          = [if final then 1 else 0] ++ es.flatMap (fun e => [BitVec.ofNat 8 e.number, kind e.kind]
            ++ timeBytes e.windowStart ++ timeBytes e.windowEnd ++ [BitVec.ofNat 8 e.level]))
      ∧ (∀ stamp d, (LinkFrame.syncDone stamp d).payload = timeBytes stamp ++ byte2 d.toNat))

/-- The envelopes of the plan port: a request with LEN, CHECK and trailer right is the command of its KIND
(Table 10-9), later bytes unread; 0xFF first is no request; another lead byte, a wrong LEN, CHECK or trailer
or too few bytes make a request that is not sound. PDI is read most significant bit first, a partial byte
discarded, and the command joins the queue. PDO carries the held reply's frame and 0xFF after it, most
significant bit first, while PCS is low, and nothing while PCS is high or RSTn low. ATTN is high exactly while
a record is collectable or a cause is unread (R62, R162 to R164, R174). Model's choices: log 15. -/
def Obligations.PlanPortEnvelopes : Prop :=
  (∀ (kind check trailer : Byte) (p rest : List Byte), p.length ≤ 64 →
    commandOf ([0x51#8, BitVec.ofNat 8 (1 + p.length), kind] ++ p ++ [check, trailer] ++ rest) =
      some (if (1 + p.length + kind.toNat + (p.map BitVec.toNat).sum + check.toNat) % 256 = 0
          ∧ (trailer = 0x17 ∨ (trailer = 0x1F ∧ kind = 0x21))
        then requestOf kind p (decide (trailer = 0x1F)) else .planPortFrameError))
  ∧ (∀ (len : Byte) (body : List Byte), len = 0 ∨ 65 < len.toNat ∨ body.length < len.toNat + 2 →
      commandOf (0x51#8 :: len :: body) = some .planPortFrameError)
  ∧ commandOf [0x51#8] = some .planPortFrameError
  ∧ commandOf [] = none
  ∧ (∀ (lead : Byte) (rest : List Byte),
      (lead = 0xFF → commandOf (lead :: rest) = none)
      ∧ (lead ≠ 0xFF → lead ≠ 0x51 → commandOf (lead :: rest) = some .planPortFrameError))
  ∧ (∀ (kind : Byte) (p : List Byte) (more : Bool),
      requestOf kind p more =
        if kind = 0x10 then .configure p else if kind = 0x11 then .start p
        else if kind = 0x20 then .load p else if kind = 0x21 then .data p more
        else if kind = 0x22 then .swap p else if kind = 0x30 then .setHead p
        else if kind = 0x31 then .readHead p else if kind = 0x32 then .calibrate p
        else if kind = 0x40 then .post p else if kind = 0x41 then .cancel p
        else if kind = 0x42 then .query p else if kind = 0x43 then .collect p
        else if kind = 0x50 then .status p else if kind = 0x51 then .identify p
        else if kind = 0x52 then .withdraw p else if kind = 0x5F then .restart p
        else .unknownKind kind p)
  ∧ (∀ (bytes : List Byte) (part : List Bool), part.length < 8 →
      pdiBytes (bytes.flatMap (fun x => [x.getLsbD 7, x.getLsbD 6, x.getLsbD 5, x.getLsbD 4, x.getLsbD 3,
        x.getLsbD 2, x.getLsbD 1, x.getLsbD 0]) ++ part) = bytes)
  ∧ (∀ (s : State) (pdi : List Bool),
      (commandOf (pdiBytes pdi) = none → s.transaction pdi = s)
      ∧ ∀ c, commandOf (pdiBytes pdi) = some c →
        s.transaction pdi = { s with pending := s.pending ++ [c] })
  ∧ (∀ r : Reply, ∃ check : Byte,
      r.bytes = [0x52#8, BitVec.ofNat 8 (2 + r.payload.length), r.kind, BitVec.ofNat 8 (resultCode r.result)]
        ++ r.payload ++ [check, 0x17#8]
      ∧ ((r.bytes.drop 1).map BitVec.toNat).sum % 256 = 0x17)
  ∧ (∀ (s : State) (n : Nat),
      (s.pins.rstn = false → (∀ pcs, s.pdo pcs n = none) ∧ s.attn = false)
      ∧ s.pdo true n = none
      ∧ (s.pins.rstn = true → s.reply = none → s.pdo false n = some (List.replicate n 0xFF#8))
      ∧ (∀ r, s.pins.rstn = true → s.reply = some r →
          s.pdo false n = some (r.bytes.take n ++ List.replicate (n - r.bytes.length) 0xFF#8))
      ∧ (∀ pcs, s.pdoLevels pcs n = (s.pdo pcs n).map (fun bytes => bytes.flatMap (fun x =>
          [x.getLsbD 7, x.getLsbD 6, x.getLsbD 5, x.getLsbD 4, x.getLsbD 3, x.getLsbD 2, x.getLsbD 1,
            x.getLsbD 0])))
      ∧ (s.pins.rstn = true → (s.attn = true ↔
          (∃ r ∈ s.plans.records, r.state = .finished ∧ r.releasePending = false)
          ∨ s.fault.cause ≠ none)))

/-- The code of a profile sample is thr + floor((s × (wc + trim − thr) + 127) / 255), clipped to 0..1023
(R65): the floor is said by its two bounds. -/
def Obligations.SampleCodeIsFlooredAndClipped : Prop :=
  ∀ (v : HeadValues) (sample : Nat), ∃ x : Int,
    255 * (x - v.threshold) ≤ sample * (v.write + v.trim - v.threshold) + 127
    ∧ sample * (v.write + v.trim - v.threshold) + 127 < 255 * (x - v.threshold + 1)
    ∧ (levelCode v sample : Int) = max 0 (min 1023 x)

/-! ### Plan port requests -/

/-- CONFIGURE in SETUP replaces the whole configuration where its items are in range and agree, and keeps it
with BAD_ARGUMENT where they are not, a fence side code above 2 included; in another state it is answered
WRONG_STATE (R166). -/
def Obligations.ConfigureReplacesConfiguration : Prop :=
  (∀ (s : State) (c : Configuration), s.pins.rstn = true → c.Fits →
    (s.station = .setup → c.InRange →
      exec (.configure c.bytes) s = .next (Replied { s with config := c } 0x10 .ok []))
    ∧ (s.station = .setup → ¬ c.InRange →
      exec (.configure c.bytes) s = .next (Replied s 0x10 .badArgument []))
    ∧ (s.station ≠ .setup → exec (.configure c.bytes) s = .next (Replied s 0x10 .wrongState [])))
  ∧ (∀ (s : State) (p : List Byte), s.pins.rstn = true → p.length = 19 → 2 < (p.getD 17 0).toNat →
    exec (.configure p) s
      = .next (Replied s 0x10 (if s.station = .setup then .badArgument else .wrongState) []))

/-- START in SETUP applies the initial fence, takes the station to LISTEN with what R146 clears, and lets the
receiver wait for idle time (R128); its refusals change nothing (R167). SETUP holds no plan (SetupClean).
Model's choices: log 20. -/
def Obligations.StartEntersListen : Prop :=
  ∀ s : State, s.pins.rstn = true → s.plans.records = [] →
    (s.station = .setup → 1 ≤ s.config.bTotal →
      (s.config.fence.side = .none ∨ Widening s.restrictions.fence s.config.fence) →
      exec (.start []) s = .next (Replied
        { s with
          station := .listen,
          restrictions := { s.restrictions with
            fence := if s.config.fence.side = .none then s.restrictions.fence else s.config.fence },
          peers := { s.peers with sync := .none, requester := false, awaited := [], reRequest := false,
                                  quiet := none, listenPulses := 0, adopted := false,
                                  joinSent := false },
          link := { s.link with receiver := .waitingIdle } } 0x11 .ok []))
    ∧ (s.station = .setup → s.config.bTotal = 0 →
      exec (.start []) s = .next (Replied s 0x11 .badArgument []))
    ∧ (s.station = .setup → s.config.fence.side ≠ .none → ¬ Widening s.restrictions.fence s.config.fence →
      exec (.start []) s = .next (Replied s 0x11 .badArgument []))
    ∧ (s.station ≠ .setup → exec (.start []) s = .next (Replied s 0x11 .wrongState []))

/-- An accepted LOAD erases the standby bank, makes it LOADING and sets up the load record; the active bank,
the roles and the last swap outcome stay (R100, R101). -/
def Obligations.LoadErasesStandbyBank : Prop :=
  ∀ (s : State) (n d p : Nat), s.pins.rstn = true → 1 ≤ n → n ≤ 2048 → 1 ≤ d → d ≤ 64 → p ≤ 16 →
    s.station = .setup ∨ s.station = .active → s.restrictions.load = false →
    s.store.standbyBank.state ≠ .swapPending →
    ∃ t, exec (.load (byte2 n ++ byte1 d ++ byte1 p)) s = .next t
      ∧ t = Replied { s with store := t.store } 0x20 .ok []
      ∧ t.store.active = s.store.active ∧ t.store.activeBank = s.store.activeBank
      ∧ t.store.lastSwap = s.store.lastSwap
      ∧ t.store.standbyBank =
          { state := .loading, samples := [],
            descriptors := List.replicate 64 { first := 0, count := 0 },
            profiles := List.replicate 16 none }
      ∧ t.store.load = some
          { n := n, d := d, p := p, received := 0, badDescriptor := none, badReference := none,
            badZone := none, badLimits := none, zonesSeen := [], item := [], profiles := [] }

/-- The bytes of a DATA frame marked "more follows" that lie in the sample positions become the samples at
those positions, in order; every other sample and the rest of the bank stay, and the reply is RECEIVED
(R102). The byte that completes descriptor i has it stored, and DESCRIPTOR fails for it where its count is
0 or it runs past N; the byte that completes profile record j has it read as Table 6-7 says, and REFERENCE,
ZONE and LIMITS fail for it as R104 says, the earliest failure being kept (R103, R104). A byte within an
item is kept, one past the expected total is only counted; bytes are taken one after another, however they are
cut into frames (R102). -/
def Obligations.DataStoresItems : Prop :=
  (∀ (s : State) (p : List Byte) (l : Load), s.pins.rstn = true → s.station ≠ .halted →
     s.restrictions.load = false → s.store.standbyBank.state = .loading → s.store.load = some l →
     LoadSound l → BankSound s.store.standbyBank → p.length ≤ 64 →
     4 * l.d + 14 * l.p ≤ l.received → l.received + p.length ≤ 4 * l.d + 14 * l.p + l.n →
     ∃ t, exec (.data p true) s = .next t
       ∧ t = Replied { s with store := t.store } 0x21 .received []
       ∧ t.store.active = s.store.active ∧ t.store.activeBank = s.store.activeBank
       ∧ t.store.lastSwap = s.store.lastSwap
       ∧ t.store.load = some { l with received := l.received + p.length }
       ∧ t.store.standbyBank = { s.store.standbyBank with samples := t.store.standbyBank.samples }
       ∧ ∀ a, Memory.read t.store.standbyBank.samples a =
           if l.received - (4 * l.d + 14 * l.p) ≤ a ∧ a < l.received + p.length - (4 * l.d + 14 * l.p)
           then p.getD (a - (l.received - (4 * l.d + 14 * l.p))) 0
           else Memory.read s.store.standbyBank.samples a)
  ∧ (∀ (s : State) (l : Load) (x : Byte) (i first count : Nat), s.pins.rstn = true → s.station ≠ .halted →
       s.restrictions.load = false → s.store.standbyBank.state = .loading → s.store.load = some l →
       LoadSound l → i < l.d → l.received = 4 * i + 3 → first < 65536 → count < 65536 →
       l.item ++ [x] = byte2 first ++ byte2 count →
       ∃ t, exec (.data [x] true) s = .next t
         ∧ t = Replied { s with store := t.store } 0x21 .received []
         ∧ t.store.standbyBank = { s.store.standbyBank with
             descriptors := s.store.standbyBank.descriptors.set i { first := first, count := count } }
         ∧ t.store.load = some { l with
             received := 4 * i + 4, item := [],
             badDescriptor :=
               if l.badDescriptor = none ∧ (count = 0 ∨ l.n < first + count) then some i
               else l.badDescriptor }
         ∧ t.store.active = s.store.active ∧ t.store.activeBank = s.store.activeBank
         ∧ t.store.lastSwap = s.store.lastSwap)
  ∧ (∀ (s : State) (l : Load) (x : Byte) (j v zone pre tail : Nat) (item : List Byte) (at' : Nat → Nat)
       (prof : Profile), s.pins.rstn = true → s.station ≠ .halted →
       s.restrictions.load = false → s.store.standbyBank.state = .loading → s.store.load = some l →
       LoadSound l → j < l.p → l.received = 4 * l.d + 14 * j + 13 → l.item ++ [x] = item →
       item.length = 14 → (∀ i, at' i = (item.getD i 0).toNat) → zone = at' 0 → pre = at' 1 % 16 →
       tail = at' 1 / 16 → v = at' 11 + 256 * at' 12 + 65536 * at' 13 →
       prof = { preheat := [at' 2, at' 3, at' 4].take (min pre 3), write := at' 5,
                tail := [at' 6, at' 7, at' 8].take (min tail 3), hold := at' 9, level := at' 10,
                lead := v % 4096, tailAllowance := v / 4096 } →
       exec (.data [x] true) s = .next (Replied
         { s with store := { s.store with load := some { l with
             received := 4 * l.d + 14 * j + 14, item := [],
             badReference :=
               if l.badReference = none ∧ (∃ i ∈ prof.preheat ++ [prof.write] ++ prof.tail, l.d ≤ i)
               then some j else l.badReference,
             badZone := if l.badZone = none ∧ (15 < zone ∨ zone ∈ l.zonesSeen) then some j else l.badZone,
             badLimits :=
               if l.badLimits = none ∧ (pre < 1 ∨ 3 < pre ∨ 3 < tail ∨ prof.lead < 16 ∨ 2047 < prof.lead
                 ∨ 1023 < prof.tailAllowance ∨ 3583 < prof.lead + prof.tailAllowance ∨ prof.level = 0)
               then some j else l.badLimits,
             zonesSeen := if 15 < zone ∨ zone ∈ l.zonesSeen then l.zonesSeen else l.zonesSeen ++ [zone],
             profiles := l.profiles ++ [(zone, prof)] } } }
         0x21 .received []))
  ∧ (∀ (s : State) (l : Load) (x : Byte), s.pins.rstn = true → s.station ≠ .halted →
       s.restrictions.load = false → s.store.standbyBank.state = .loading → s.store.load = some l →
       LoadSound l →
       ((l.received < 4 * l.d ∧ l.item.length < 3
           ∨ 4 * l.d ≤ l.received ∧ l.received < 4 * l.d + 14 * l.p ∧ l.item.length < 13) →
         exec (.data [x] true) s = .next (Replied
           { s with store := { s.store with load := some { l with
               received := l.received + 1, item := l.item ++ [x] } } } 0x21 .received []))
       ∧ (4 * l.d + 14 * l.p + l.n ≤ l.received →
         exec (.data [x] true) s = .next (Replied
           { s with store := { s.store with load := some { l with
               received := min (l.received + 1) 65535 } } } 0x21 .received [])))
  ∧ (∀ (s u : State) (p q : List Byte), p.length + q.length ≤ 64 →
       exec (.data p true) s = .next u → exec (.data (p ++ q) true) s = exec (.data q true) u)

/-- A final DATA frame without payload ends the load with the verdict of Table 6-8: READY with the profiles
at the zones they name, or erased and EMPTY with LOAD_FAILED, code and index (R105). A final frame with a
payload is taken as the frame marked "more follows" and then ends the load so (R102). -/
def Obligations.FinalDataGivesVerdict : Prop :=
  (∀ (s : State) (l : Load), s.pins.rstn = true → s.station ≠ .halted →
    s.restrictions.load = false → s.store.standbyBank.state = .loading → s.store.load = some l →
    ∃ (t : State) (code index : Nat), exec (.data [] false) s = .next t
      ∧ (if l.received ≠ 4 * l.d + 14 * l.p + l.n then code = 1 ∧ index = 0
        else if l.badDescriptor ≠ none then code = 2 ∧ l.badDescriptor = some index
        else if l.badReference ≠ none then code = 3 ∧ l.badReference = some index
        else if l.badZone ≠ none then code = 4 ∧ l.badZone = some index
        else if l.badLimits ≠ none then code = 5 ∧ l.badLimits = some index
        else code = 0 ∧ index = 0)
      ∧ t = Replied { s with store := t.store } 0x21 (if code = 0 then .ok else .loadFailed)
          [BitVec.ofNat 8 code, BitVec.ofNat 8 index]
      ∧ t.store.active = s.store.active ∧ t.store.activeBank = s.store.activeBank
      ∧ t.store.lastSwap = s.store.lastSwap ∧ t.store.load = none
      ∧ t.store.standbyBank =
          (if code = 0 then { s.store.standbyBank with
            state := .ready,
            profiles := l.profiles.foldl (fun ps zp => ps.set zp.1 (some zp.2))
              s.store.standbyBank.profiles }
          else
            { state := .empty, samples := [],
              descriptors := List.replicate 64 { first := 0, count := 0 },
              profiles := List.replicate 16 none }))
  ∧ (∀ (s u : State) (p : List Byte), p.length ≤ 64 → exec (.data p true) s = .next u →
      exec (.data p false) s = exec (.data [] false) u)

/-- SWAP in SETUP exchanges the roles at once; in ACTIVE with a plan executing it makes the standby bank
SWAP_PENDING and leaves the roles; with none executing it is resolved in the same action, as SWAP_RESOLUTION
resolves the pending swap (R107, R108, R110). SWAP_RESOLUTION with no plan executing: where every
live WRITE record passes R109 the roles are exchanged with outcome DONE; else the first that fails blocks,
the standby bank returns to READY and the outcome is REFUSED with its tag (R109 to R111).
Model's choices: log 12. -/
def Obligations.SwapExchangesWaitsOrIsRefused : Prop :=
  (∀ s : State, s.pins.rstn = true → s.restrictions.load = false → s.store.standbyBank.state = .ready →
     (s.station = .setup →
       ∃ t, exec (.swap []) s = .next t
         ∧ t = Replied { s with store := t.store } 0x22 .ok []
         ∧ t.store.active ≠ s.store.active ∧ t.store.bankA = s.store.bankA
         ∧ t.store.bankB = s.store.bankB ∧ t.store.lastSwap = .done ∧ t.store.load = s.store.load)
     ∧ (s.station = .active → s.seq.current.isSome = true →
       ∃ t, exec (.swap []) s = .next t
         ∧ t = Replied { s with store := t.store } 0x22 .ok []
         ∧ t.store.active = s.store.active ∧ t.store.activeBank = s.store.activeBank
         ∧ t.store.standbyBank = { s.store.standbyBank with state := .swapPending }
         ∧ t.store.lastSwap = s.store.lastSwap ∧ t.store.load = s.store.load)
     ∧ (s.station = .active → s.seq.current = none →
       ∃ u t, u = { s with store := u.store }
         ∧ u.store.active = s.store.active ∧ u.store.activeBank = s.store.activeBank
         ∧ u.store.standbyBank = { s.store.standbyBank with state := .swapPending }
         ∧ u.store.lastSwap = s.store.lastSwap ∧ u.store.load = s.store.load
         ∧ exec .swapResolution u = .next t
         ∧ exec (.swap []) s = .next (Replied t 0x22 .ok [])))
  ∧ (∀ s : State, s.pins.rstn = true → s.station ≠ .halted → s.seq.current = none →
       s.store.standbyBank.state = .swapPending →
       ((∀ r ∈ s.plans.records, r.live = true → r.kind = .write → PassesSwap s.store.standbyBank r) →
         ∃ t, exec .swapResolution s = .next t ∧ t = { s with store := t.store }
           ∧ t.store.active ≠ s.store.active
           ∧ t.store.activeBank = { s.store.standbyBank with state := .ready }
           ∧ t.store.standbyBank = s.store.activeBank
           ∧ t.store.lastSwap = .done ∧ t.store.load = s.store.load)
       ∧ (∀ pre r post, s.plans.records = pre ++ r :: post →
         (∀ x ∈ pre, x.live = true → x.kind = .write → PassesSwap s.store.standbyBank x) →
         r.live = true → r.kind = .write → ¬ PassesSwap s.store.standbyBank r →
         ∃ t, exec .swapResolution s = .next t ∧ t = { s with store := t.store }
           ∧ t.store.active = s.store.active ∧ t.store.activeBank = s.store.activeBank
           ∧ t.store.standbyBank = { s.store.standbyBank with state := .ready }
           ∧ t.store.lastSwap = .refused r.tag ∧ t.store.load = s.store.load))

/-- An accepted SET-HEAD replaces the head's record: VALID, the codes given, trim 0, source SET, no stamp; a
live record on the head makes it BUSY in ACTIVE, codes out of order BAD_ARGUMENT (R117). READ-HEAD answers
the head's record in the fields of Table 7-3, the trim in two's complement (R178), and changes nothing
else; a head at or above the head count is BAD_ARGUMENT (R119). -/
def Obligations.SetHeadAndReadHead : Prop :=
  (∀ (s : State) (h : Byte) (thr wc : Nat), s.pins.rstn = true → h.toNat < s.config.headCount →
     thr < 65536 → wc < 65536 →
     (thr < wc → wc ≤ 1023 →
       (s.station = .setup ∨ (s.station = .active ∧
         ∀ r ∈ s.plans.records, r.live = true → r.head ≠ h.toNat)) →
       exec (.setHead ([h] ++ byte2 thr ++ byte2 wc)) s = .next (Replied
         { s with
           heads := s.heads.set h.toNat
             { state := .valid, threshold := thr, write := wc, trim := 0, source := .set, stamp := none } }
         0x30 .ok []))
     ∧ (thr < wc → wc ≤ 1023 → s.station = .active →
       (∃ r ∈ s.plans.records, r.live = true ∧ r.head = h.toNat) →
       exec (.setHead ([h] ++ byte2 thr ++ byte2 wc)) s = .next (Replied s 0x30 .busy []))
     ∧ (wc ≤ thr ∨ 1023 < thr ∨ 1023 < wc → s.station = .setup ∨ s.station = .active →
       exec (.setHead ([h] ++ byte2 thr ++ byte2 wc)) s = .next (Replied s 0x30 .badArgument [])))
  ∧ (∀ (s : State) (h : Byte) (r : HeadRecord), s.pins.rstn = true →
       (h.toNat < s.config.headCount → s.heads[h.toNat]? = some r → -31 ≤ r.trim → r.trim ≤ 31 →
         r.threshold ≤ 1023 → r.write ≤ 1023 →
         exec (.readHead [h]) s = .next (Replied s 0x31 .ok
           [h, (match r.state with | .uncal => 0 | .valid => 1 | .suspect => 2),
             BitVec.ofNat 8 (r.threshold % 256), BitVec.ofNat 8 (r.threshold / 256),
             BitVec.ofNat 8 (r.write % 256), BitVec.ofNat 8 (r.write / 256),
             (if 0 ≤ r.trim then BitVec.ofNat 8 r.trim.toNat else BitVec.ofNat 8 (256 + r.trim).toNat),
             (match r.source with | .set => 0 | .cal => 1),
             (if r.stamp = none then 0 else 1),
             BitVec.ofNat 8 ((r.stamp.getD 0).toNat % 256),
             BitVec.ofNat 8 ((r.stamp.getD 0).toNat / 256 % 256),
             BitVec.ofNat 8 ((r.stamp.getD 0).toNat / 65536)]))
       ∧ (s.config.headCount ≤ h.toNat → exec (.readHead [h]) s = .next (Replied s 0x31 .badArgument [])))

/-- A POST that passes the twelve checks of Table 3-4 makes one QUEUED record with the window of R40 and the
lowest free claim number, queues its CLAIM at the tail, and answers OK with window and claim number (R43). -/
def Obligations.PostAcceptsPlan : Prop :=
  ∀ (s : State) (tag head zone : Byte) (start : Time) (length claim : Nat) (p : Profile) (ws we : Time),
    s.pins.rstn = true → s.station = .active → head.toNat < s.config.headCount → zone.toNat ≤ 15 →
    1 ≤ length → length ≤ s.config.lMax → length < 65536 → s.plans.records.length < 8 →
    (∀ r ∈ s.plans.records, r.tag ≠ tag) → (s.headRecord head.toNat).state = .valid →
    ¬ Fenced s.restrictions.fence zone.toNat → s.store.activeBank.profile zone.toNat = some p →
    p.lead + length + p.tailAllowance ≤ 3584 → ws = timeMinus start p.lead →
    we = timePlus start (length + p.tailAllowance) →
    512 ≤ timeDiff ws s.now → timeDiff ws s.now ≤ 8192 →
    WindowKept s.config.gMin s.plans.records head.toNat ws we →
    LowestFree s.plans.records claim →
    exec (.post ([tag, head, zone] ++ timeBytes start ++ byte2 length)) s = .next (Replied
      { s with
        plans := { s.plans with
          records := s.plans.records ++
            [{ tag := tag, kind := .write, head := head.toNat, zone := zone.toNat, planStart := start,
               length := length, lead := p.lead, tailAllowance := p.tailAllowance, level := p.level,
               windowStart := ws, windowEnd := we, claim := claim, sequence := s.plans.accepted,
               state := .queued, cancel := none, releasePending := false, outcome := none,
               finishStamp := none, hint := none, report := none, calResult := none,
               faultStamp := none }],
          accepted := s.plans.accepted + 1 },
        link := { s.link with queue := s.link.queue ++ [.claim claim .write ws we p.level] } }
      0x40 .ok (timeBytes ws ++ timeBytes we ++ byte1 claim))

/-- A refused POST changes nothing but the reply, which carries the result of the first of the twelve checks of
Table 3-4 that fails (R41, R42); a refused CALIBRATE likewise, by the eleven of Table 3-5 (R44). The window
of a POST is that of the zone's profile in the active bank (R40). -/
def Obligations.PostRefusalsInOrder : Prop :=
  (∀ (s : State) (tag head zone : Byte) (start length lead tail : Nat) (ws we : Time) (result : Result),
    s.pins.rstn = true → start < 16777216 → length < 65536 →
    (∀ p, s.store.activeBank.profile zone.toNat = some p → lead = p.lead ∧ tail = p.tailAllowance) →
    ws = timeMinus (BitVec.ofNat 20 start) lead → we = timePlus (BitVec.ofNat 20 start) (length + tail) →
    FirstOf
      [(s.station ≠ .active, Result.wrongState),
       (s.config.headCount ≤ head.toNat ∨ 15 < zone.toNat ∨ 1048575 < start ∨ length = 0, .badArgument),
       (8 ≤ s.plans.records.length, .queueFull),
       (∃ r ∈ s.plans.records, r.tag = tag, .tagInUse),
       ((s.headRecord head.toNat).state ≠ .valid, .headNotReady),
       (Fenced s.restrictions.fence zone.toNat, .fenced),
       (s.store.activeBank.profile zone.toNat = none, .noProfile),
       (s.config.lMax < length ∨ 3584 < lead + length + tail, .tooLong),
       (timeDiff ws s.now < 512, .tooSoon),
       (8192 < timeDiff ws s.now, .tooFar),
       (∃ x ∈ s.plans.records, x.live = true ∧ windowsOverlap ws we x.windowStart x.windowEnd = true,
         .ownOverlap),
       (¬ WindowKept s.config.gMin s.plans.records head.toNat ws we, .headGap)] result →
    exec (.post ([tag, head, zone] ++ byte3 start ++ byte2 length)) s = .next (Replied s 0x40 result []))
  ∧ (∀ (s : State) (tag head : Byte) (start : Nat) (ws we : Time) (result : Result),
    s.pins.rstn = true → start < 16777216 →
    ws = BitVec.ofNat 20 start → we = timePlus ws s.config.calLength →
    FirstOf
      [(s.station ≠ .active, Result.wrongState),
       (s.restrictions.calibrate = true, .withdrawn),
       (s.config.headCount ≤ head.toNat ∨ 1048575 < start, .badArgument),
       (8 ≤ s.plans.records.length, .queueFull),
       (∃ r ∈ s.plans.records, r.tag = tag, .tagInUse),
       (∃ r ∈ s.plans.records, r.live = true ∧ r.kind = .cal, .busy),
       (3584 < s.config.calLength, .tooLong),
       (timeDiff ws s.now < 512, .tooSoon),
       (8192 < timeDiff ws s.now, .tooFar),
       (∃ x ∈ s.plans.records, x.live = true ∧ windowsOverlap ws we x.windowStart x.windowEnd = true,
         .ownOverlap),
       (¬ WindowKept s.config.gMin s.plans.records head.toNat ws we, .headGap)] result →
    exec (.calibrate ([tag, head] ++ byte3 start)) s = .next (Replied s 0x32 result []))

/-- A CALIBRATE that passes the checks of Table 3-5 makes one QUEUED CAL record with the configured length and
level, lead and tail allowance 0, and queues its CLAIM (R44). -/
def Obligations.CalibrateAcceptsPlan : Prop :=
  ∀ (s : State) (tag head : Byte) (start : Time) (claim : Nat) (we : Time),
    s.pins.rstn = true → s.station = .active → s.restrictions.calibrate = false →
    head.toNat < s.config.headCount → s.plans.records.length < 8 →
    (∀ r ∈ s.plans.records, r.tag ≠ tag ∧ ¬(r.live = true ∧ r.kind = .cal)) →
    s.config.calLength ≤ 1600 → we = timePlus start s.config.calLength →
    512 ≤ timeDiff start s.now → timeDiff start s.now ≤ 8192 →
    WindowKept s.config.gMin s.plans.records head.toNat start we →
    LowestFree s.plans.records claim →
    exec (.calibrate ([tag, head] ++ timeBytes start)) s = .next (Replied
      { s with
        plans := { s.plans with
          records := s.plans.records ++
            [{ tag := tag, kind := .cal, head := head.toNat, zone := 0, planStart := start,
               length := s.config.calLength, lead := 0, tailAllowance := 0, level := s.config.calLevel,
               windowStart := start, windowEnd := we, claim := claim, sequence := s.plans.accepted,
               state := .queued, cancel := none, releasePending := false, outcome := none,
               finishStamp := none, hint := none, report := none, calResult := none,
               faultStamp := none }],
          accepted := s.plans.accepted + 1 },
        link := { s.link with queue := s.link.queue ++ [.claim claim .cal start we s.config.calLevel] } }
      0x32 .ok (timeBytes start ++ timeBytes we ++ byte1 claim))

/-- CANCEL before execution: a QUEUED record finishes CANCELLED and its CLAIM leaves the transmit queue; a
CLAIMING one keeps its state with the cancel recorded; a GRANTED one finishes CANCELLED with a RELEASE at
its window start (R52 to R54, R58). Model's choices: log 33. -/
def Obligations.CancelBeforeExecution : Prop :=
  ∀ (s : State) (tag mode : Byte) (r : Record), s.pins.rstn = true → s.station ≠ .halted →
    mode = 0 ∨ mode = 1 → s.plans.find tag = some r →
    (r.state = .queued →
      exec (.cancel [tag, mode]) s = .next (Replied
        { s with
          plans := { s.plans with
            records := s.plans.records.map (fun x =>
              if x.tag = tag then endedRecord x .cancelled s.now none none none false else x),
            finished := s.plans.finished ++ [tag] },
          link := Unsent s.link (.claim r.claim) }
        0x41 .ok [tag]))
    ∧ (r.state = .claiming →
      exec (.cancel [tag, mode]) s = .next (Replied
        { s with plans := s.plans.update tag (fun x =>
            { x with cancel := some (if mode = 0 then .immediate else .segmentEnd) }) } 0x41 .ok [tag]))
    ∧ (r.state = .granted →
      exec (.cancel [tag, mode]) s = .next (Replied
        { s with
          plans := { s.plans with
            records := s.plans.records.map (fun x =>
              if x.tag = tag then endedRecord x .cancelled s.now none none none true else x),
            finished := s.plans.finished ++ [tag] },
          link := { s.link with queue := s.link.queue ++ [.release r.claim r.windowStart] } }
        0x41 .ok [tag]))

/-- CANCEL of an executing record: READY, PAUSED from READY and CALIBRATING end CANCELLED at once in either
mode, PREHEAT and PAUSED from it at IMMEDIATE; a SEGMENT_END cancel of PREHEAT or WRITING, or of a pause
from them, is recorded; TAIL and FINISHED are TOO_LATE (R55 to R58). -/
def Obligations.CancelDuringExecution : Prop :=
  ∀ (s : State) (tag mode : Byte) (r : Record), s.pins.rstn = true → s.station ≠ .halted →
    mode = 0 ∨ mode = 1 → s.plans.find tag = some r →
    (r.state = .ready ∨ r.state = .paused .ready ∨ r.state = .calibrating
        ∨ (mode = 0 ∧ (r.state = .preheat ∨ r.state = .paused .preheat)) → s.burst = none →
      ∃ u, PlanEnded s r .cancelled none none none u
        ∧ exec (.cancel [tag, mode]) s = .next (Replied u 0x41 .ok [tag]))
    ∧ (r.state = .preheat ∨ r.state = .paused .preheat ∨ r.state = .writing
        ∨ r.state = .paused .writing → mode = 1 →
      exec (.cancel [tag, mode]) s = .next (Replied
        { s with plans := s.plans.update tag (fun x => { x with cancel := some .segmentEnd }) }
        0x41 .ok [tag]))
    ∧ (∀ b, r.state = .writing ∨ r.state = .paused .writing → mode = 0 → s.burst = some b →
      ((b.report s.config.deviationThreshold).cls = .clean
        ∨ (b.report s.config.deviationThreshold).cls = .drift) →
      ∃ u, PlanEnded { s with seq := { s.seq with wfault := s.seq.wfault || s.pins.wgate } } r .cancelled
          none (some (b.report s.config.deviationThreshold)) none u
        ∧ exec (.cancel [tag, mode]) s = .next (Replied u 0x41 .ok [tag]))
    ∧ (r.state = .tail ∨ r.state = .finished →
      exec (.cancel [tag, mode]) s = .next (Replied s 0x41 .tooLate []))

/-- QUERY answers the whole record in the 52 bytes of Table 11-6 and changes nothing; an unknown tag is
NO_SUCH_TAG (R60, R179). COLLECT removes the collectable record that stands first in finish order and
answers as QUERY does; without one it answers EMPTY and changes nothing (R61). -/
def Obligations.QueryAndCollectReturnRecords : Prop :=
  (∀ (s : State) (tag : Byte), s.pins.rstn = true → s.station ≠ .halted →
     (∀ r, s.plans.find tag = some r → ∃ p : List Byte,
       exec (.query [tag]) s = .next (Replied s 0x42 .ok p) ∧ p.length = 52
       ∧ p.take 27 = [r.tag, (match r.kind with | .write => 0 | .cal => 1), BitVec.ofNat 8 r.head,
             BitVec.ofNat 8 r.zone] ++ timeBytes r.planStart ++ byte2 r.length ++ byte2 r.lead
           ++ byte2 r.tailAllowance ++ byte1 r.level ++ timeBytes r.windowStart ++ timeBytes r.windowEnd
           ++ byte1 r.claim ++ byte2 r.sequence.toNat
           ++ [(match r.state with
               | .queued => 0 | .claiming => 1 | .granted => 2 | .preheat => 3 | .ready => 4
               | .writing => 5 | .paused .preheat => 6 | .paused .ready => 7 | .paused .writing => 8
               | .tail => 9 | .calibrating => 10 | .finished => 11),
             (match r.cancel with | none => 0 | some .immediate => 1 | some .segmentEnd => 2),
             (if r.releasePending then 1 else 0),
             BitVec.ofNat 8 ((if r.outcome = none then 0 else 1) + (if r.hint = none then 0 else 2)
               + (if r.report = none then 0 else 4) + (if r.calResult = none then 0 else 8)
               + (if r.faultStamp = none then 0 else 16))]
       ∧ p.drop 27 = [(match r.outcome with
               | none => (0 : Byte) | some .done => 0 | some .calFail => 1 | some .denied => 2 | some .late => 3
               | some .missed => 4 | some .coldWrite => 5 | some .overrun => 6 | some .servoClash => 7
               | some .rail => 8 | some .interrupted => 9 | some .cancelled => 10 | some .fenced => 11
               | some .headSuspect => 12 | some .spindle => 13)]
           ++ timeBytes (r.finishStamp.getD 0) ++ timeBytes (r.hint.getD 0)
           ++ (match r.report with
               | none => List.replicate 9 0
               | some m => byte1 m.q0 ++ byte1 m.q1 ++ byte1 m.q2 ++ byte1 m.q3 ++ byte1 m.low
                   ++ byte1 m.high ++ byte1 m.maximum ++ byte1 m.maxIndex
                   ++ [(match m.cls with | .clean => 0 | .drift => 1 | .marginal => 2 | .loss => 3)])
           ++ (match r.calResult with
               | none => List.replicate 6 0
               | some c => byte2 c.threshold ++ byte2 c.write
                   ++ [(match c.cause with | .none => 0 | .monitor => 1 | .writeLimit => 2),
                       BitVec.ofNat 8 c.monlo])
           ++ timeBytes (r.faultStamp.getD 0))
     ∧ ((∀ r ∈ s.plans.records, r.tag ≠ tag) →
       exec (.query [tag]) s = .next (Replied s 0x42 .noSuchTag [])))
  ∧ (∀ s : State, s.pins.rstn = true → s.station ≠ .halted →
       (∀ pre tag post r, s.plans.finished = pre ++ tag :: post →
         (∀ u ∈ pre, ∀ x, s.plans.find u = some x → x.state ≠ .finished ∨ x.releasePending = true) →
         s.plans.find tag = some r → r.state = .finished → r.releasePending = false →
         exec (.collect []) s = .next (Replied
           { s with plans := { s.plans with
               records := s.plans.records.filter (fun x => decide (x.tag ≠ tag)),
               finished := s.plans.finished.filter (fun u => decide (u ≠ tag)) } }
           0x43 .ok (recordBytes r)))
       ∧ ((∀ u ∈ s.plans.finished, ∀ x, s.plans.find u = some x →
           x.state ≠ .finished ∨ x.releasePending = true) →
         exec (.collect []) s = .next (Replied s 0x43 .empty [])))

/-- STATUS, in every station state, answers the 52 bytes of Table 11-7 and clears the fault record, and
changes nothing else (R170, R171, R180). Model's choices: log 37 (the bytes of an absent item). -/
def Obligations.StatusReportsAndClearsFault : Prop :=
  ∀ s : State, s.pins.rstn = true → s.peers.table.length = 8 → ∃ p : List Byte,
    exec (.status []) s = .next (Replied
      { s with fault := { cause := none, stamp := 0, further := false } } 0x50 .ok p)
    ∧ p.length = 52
    ∧ p.take 15 =
        [(match s.station with | .setup => 0 | .listen => 1 | .joining => 2 | .active => 3 | .halted => 4),
          BitVec.ofNat 8 s.number.toNat,
          (match s.peers.sync with | .none => 0 | .inSync => 1 | .desync => 2 | .resyncing => 3),
          (if s.peers.quiet = none then 0 else 1), BitVec.ofNat 8 (s.peers.quiet.getD 0).toNat,
          (match s.store.active with | .a => 0 | .b => 1),
          BitVec.ofNat 8 (bankCode s.store.bankA.state), BitVec.ofNat 8 (bankCode s.store.bankB.state),
          (match s.store.lastSwap with | .none => 0 | .done => 1 | .refused _ => 2 | .cancelled => 3),
          (match s.store.lastSwap with | .refused t => t | _ => 0),
          BitVec.ofNat 8 s.plans.records.length,
          BitVec.ofNat 8 (s.plans.records.filter (fun r => decide (r.state ≠ .finished))).length,
          BitVec.ofNat 8 s.link.queue.length,
          BitVec.ofNat 8 (s.table.filter (fun e => decide (e.origin = .admitted))).length,
          BitVec.ofNat 8 (s.table.filter (fun e => decide (e.origin = .announced))).length]
    ∧ (∀ n : Station,
        p.getD (15 + n.toNat) 0 = (match (s.peers.entry n).state with
          | .absent => 0 | .joining => 1 | .active => 2 | .lost => 3 | .self => 4)
        ∧ (p.getD 23 0).getLsbD n.toNat = (s.peers.entry n).digest.isSome
        ∧ [p.getD (24 + 2 * n.toNat) 0, p.getD (25 + 2 * n.toNat) 0]
            = byte2 ((s.peers.entry n).digest.getD 0).toNat)
    ∧ p.drop 40 = [s.clock.revolution] ++ byte2 s.clock.angle.toNat
        ++ [BitVec.ofNat 8 ((if s.clock.hold then 1 else 0) + (if s.clock.valid then 2 else 0)),
          BitVec.ofNat 8 ((if s.restrictions.calibrate then 1 else 0)
            + (if s.restrictions.load then 2 else 0) + (if s.restrictions.trim then 4 else 0)),
          (match s.restrictions.fence.side with | .none => 0 | .low => 1 | .high => 2),
          BitVec.ofNat 8 s.restrictions.fence.extent,
          (match s.fault.cause with
            | none => 0 | some .strayGate => 1 | some .clashSeen => 2 | some .spindleLost => 3
            | some .linkFault => 4 | some .idClash => 5)]
        ++ timeBytes s.fault.stamp ++ [if s.fault.further then 1 else 0]

/-- IDENTIFY, in every station state, answers the 48 bytes of R172 and changes nothing: device code, revision,
unit code, station number, and each Peer Table entry's unit code, the own entry's as present. -/
def Obligations.IdentifyReportsIdentity : Prop :=
  ∀ s : State, s.pins.rstn = true → s.peers.table.length = 8 → ∃ p : List Byte,
    exec (.identify []) s = .next (Replied s 0x51 .ok p) ∧ p.length = 48
    ∧ p.take 8 = [0x40#8, 0x26#8, 0x01#8] ++ byte4 Config.unitCode.toNat ++ byte1 s.number.toNat
    ∧ ∀ n : Station, (p.drop (8 + 5 * n.toNat)).take 5 =
        (if (s.peers.entry n).state = .self then [1#8] ++ byte4 Config.unitCode.toNat
        else match (s.peers.entry n).unit with
          | none => [0#8, 0#8, 0#8, 0#8, 0#8]
          | some u => [1#8] ++ byte4 u.toNat)

/-- WITHDRAW without a fence: each capability marked becomes withdrawn; a withdrawal of LOAD erases a LOADING
standby bank and cancels a pending swap; the count is 0 (R113, R169). WITHDRAW that widens the fence: the
fence held becomes the one named; every QUEUED or GRANTED WRITE record in a newly fenced zone finishes
FENCED, a QUEUED one's CLAIM leaving the transmit queue, a GRANTED one with a RELEASE at its window start,
and the reply counts them; everything else stays (R59, R169). Model's choices: log 33. -/
def Obligations.WithdrawTakesCapabilitiesOrWidensFence : Prop :=
  (∀ (s : State) (cal load trim : Bool), s.pins.rstn = true → s.station ≠ .halted →
     (s.restrictions.load = true → s.store.standbyBank.state = .empty ∨ s.store.standbyBank.state = .ready) →
     ∃ t, exec (.withdraw (flagByte cal ++ flagByte load ++ flagByte trim ++ [0#8, 0#8])) s = .next t
       ∧ t = Replied { s with
           restrictions := { s.restrictions with calibrate := s.restrictions.calibrate || cal,
                                                 load := s.restrictions.load || load,
                                                 trim := s.restrictions.trim || trim },
           store := t.store } 0x52 .ok [0#8]
       ∧ t.store.active = s.store.active ∧ t.store.activeBank = s.store.activeBank
       ∧ (load = false ∨ s.store.standbyBank.state = .empty ∨ s.store.standbyBank.state = .ready →
           t.store = s.store)
       ∧ (load = true → s.store.standbyBank.state = .loading →
           t.store.standbyBank = ErasedBank ∧ t.store.load = none ∧ t.store.lastSwap = s.store.lastSwap)
       ∧ (load = true → s.store.standbyBank.state = .swapPending →
           t.store.standbyBank = { s.store.standbyBank with state := .ready }
           ∧ t.store.load = s.store.load ∧ t.store.lastSwap = .cancelled))
  ∧ (∀ (s : State) (f : Fence) (hit : Record → Bool), s.pins.rstn = true → s.station ≠ .halted →
       QueueSound s → f.side ≠ .none → f.extent ≤ 16 → Widening s.restrictions.fence f →
       (∀ r, hit r = true ↔ r.kind = .write ∧ Fenced f r.zone ∧ ¬ Fenced s.restrictions.fence r.zone
         ∧ (r.state = .queued ∨ r.state = .granted)) →
       exec (.withdraw [0#8, 0#8, 0#8, BitVec.ofNat 8 (fenceCode f.side), BitVec.ofNat 8 f.extent]) s
         = .next (Replied
           (GroupEnded { s with restrictions := { s.restrictions with fence := f } } .fenced hit) 0x52 .ok
           [BitVec.ofNat 8 (s.plans.records.filter hit).length]))

/-- RESTART in LISTEN, JOINING and ACTIVE: plans, tables and link traffic are cleared, the laser is off,
WFAULT asserted if WGATE is high, a LOADING bank erased and a pending swap cancelled, and the station
begins LISTEN; in SETUP and HALTED it is WRONG_STATE (R173). Model's choices: logs 11, 20. -/
def Obligations.RestartClearsSchedule : Prop :=
  ∀ s : State, s.pins.rstn = true →
    (s.station = .listen ∨ s.station = .joining ∨ s.station = .active →
      ∃ t, exec (.restart []) s = .next t
        ∧ t = Replied { s with
            station := .listen, table := [], burst := none, search := none,
            plans := { records := [], finished := [], accepted := s.plans.accepted },
            seq := { current := none, profile := none, captured := none, position := none,
                     firstStep := false, laser := .off, wfault := s.seq.wfault || s.pins.wgate,
                     overrun := none },
            link := { s.link with queue := [], onLine := s.link.onLine.map (fun o =>
                { o with discard := true }), collisions := 0, collided := none, postSend := false },
            peers :=
              { table := (List.replicate 8 PeerEntry.absentEntry).set s.number.toNat
                  { PeerEntry.absentEntry with state := .self },
                sync := .none, requester := false, awaited := [], requesterPulses := 0,
                reRequest := false, quiet := none, quietPulses := 0, listenPulses := 0,
                adopted := false, joinSent := false },
            store := t.store, drive := t.drive, free := t.free } 0x5F .ok
            [BitVec.ofNat 8 (s.plans.records.filter (fun r => decide (r.state ≠ .finished))).length]
        ∧ OffSent s t
        ∧ t.store.active = s.store.active ∧ t.store.activeBank = s.store.activeBank
        ∧ (s.store.standbyBank.state = .empty ∨ s.store.standbyBank.state = .ready →
            t.store = s.store)
        ∧ (s.store.standbyBank.state = .loading → t.store.standbyBank = ErasedBank ∧ t.store.load = none
            ∧ t.store.lastSwap = s.store.lastSwap)
        ∧ (s.store.standbyBank.state = .swapPending →
            t.store.standbyBank = { s.store.standbyBank with state := .ready }
            ∧ t.store.load = s.store.load ∧ t.store.lastSwap = .cancelled))
    ∧ (s.station = .setup ∨ s.station = .halted →
      exec (.restart []) s = .next (Replied s 0x5F .wrongState []))

/-- A request with an unsound envelope is answered FRAME_ERROR with KIND 0x00; outside HALTED it ends a load
in progress, the bank erased and EMPTY; a KIND outside Table 10-9 is answered UNKNOWN_KIND, a payload of
the wrong size BAD_LENGTH, and nothing else is done (R106, R163, R164). LOAD, DATA, SWAP, SET-HEAD, CANCEL,
QUERY, COLLECT and WITHDRAW answer the first of their checks that fails (Table 10-4; R100, R102, R107, R117,
R52, R60, R61, R169) and change nothing else. Model's choices: log 23. -/
def Obligations.UnsoundRequestsAreRefused : Prop :=
  (∀ s : State, s.pins.rstn = true →
     (s.store.standbyBank.state ≠ .loading →
       exec .planPortFrameError s = .next (Replied s 0x00 .frameError []))
     ∧ (s.store.standbyBank.state = .loading → s.station = .halted →
       exec .planPortFrameError s = .next (Replied s 0x00 .frameError []))
     ∧ (s.store.standbyBank.state = .loading → s.station ≠ .halted →
       ∃ t, exec .planPortFrameError s = .next t
         ∧ t = Replied { s with store := t.store } 0x00 .frameError []
         ∧ t.store.active = s.store.active ∧ t.store.activeBank = s.store.activeBank
         ∧ t.store.lastSwap = s.store.lastSwap ∧ t.store.load = none
         ∧ t.store.standbyBank =
             { state := .empty, samples := [],
               descriptors := List.replicate 64 { first := 0, count := 0 },
               profiles := List.replicate 16 none })
     ∧ (∀ (kind : Byte) (p : List Byte),
       exec (.unknownKind kind p) s = .next (Replied s kind .unknownKind [])))
  ∧ (∀ (s : State) (p : List Byte), s.pins.rstn = true →
       (p.length ≠ 19 → exec (.configure p) s = .next (Replied s 0x10 .badLength []))
       ∧ (p.length ≠ 0 → exec (.start p) s = .next (Replied s 0x11 .badLength []))
       ∧ (p.length ≠ 4 → exec (.load p) s = .next (Replied s 0x20 .badLength []))
       ∧ (∀ more, 64 < p.length → exec (.data p more) s = .next (Replied s 0x21 .badLength []))
       ∧ (p.length ≠ 0 → exec (.swap p) s = .next (Replied s 0x22 .badLength []))
       ∧ (p.length ≠ 5 → exec (.setHead p) s = .next (Replied s 0x30 .badLength []))
       ∧ (p.length ≠ 1 → exec (.readHead p) s = .next (Replied s 0x31 .badLength []))
       ∧ (p.length ≠ 5 → exec (.calibrate p) s = .next (Replied s 0x32 .badLength []))
       ∧ (p.length ≠ 8 → exec (.post p) s = .next (Replied s 0x40 .badLength []))
       ∧ (p.length ≠ 2 → exec (.cancel p) s = .next (Replied s 0x41 .badLength []))
       ∧ (p.length ≠ 1 → exec (.query p) s = .next (Replied s 0x42 .badLength []))
       ∧ (p.length ≠ 0 → exec (.collect p) s = .next (Replied s 0x43 .badLength []))
       ∧ (p.length ≠ 0 → exec (.status p) s = .next (Replied s 0x50 .badLength []))
       ∧ (p.length ≠ 0 → exec (.identify p) s = .next (Replied s 0x51 .badLength []))
       ∧ (p.length ≠ 5 → exec (.withdraw p) s = .next (Replied s 0x52 .badLength []))
       ∧ (p.length ≠ 0 → exec (.restart p) s = .next (Replied s 0x5F .badLength [])))
  ∧ (∀ (s : State) (result : Result) (away : Prop), s.pins.rstn = true →
       away = ¬(s.station = .setup ∨ s.station = .active) →
       (∀ n d p : Nat, n < 65536 → d < 256 → p < 256 →
         FirstOf
           [(away, Result.wrongState), (s.restrictions.load = true, .withdrawn),
            (n < 1 ∨ 2048 < n ∨ d < 1 ∨ 64 < d ∨ 16 < p, .badArgument),
            (s.store.standbyBank.state = .swapPending, .busy)] result →
         exec (.load (byte2 n ++ byte1 d ++ byte1 p)) s = .next (Replied s 0x20 result []))
       ∧ (∀ (p : List Byte) (more : Bool), p.length ≤ 64 →
         FirstOf
           [(s.station = .halted, Result.wrongState), (s.restrictions.load = true, .withdrawn),
            (s.store.standbyBank.state ≠ .loading, .wrongState)] result →
         exec (.data p more) s = .next (Replied s 0x21 result []))
       ∧ (FirstOf
           [(away, Result.wrongState), (s.restrictions.load = true, .withdrawn),
            (s.store.standbyBank.state ≠ .ready, .wrongState)] result →
         exec (.swap []) s = .next (Replied s 0x22 result []))
       ∧ (∀ (h : Byte) (thr wc : Nat), thr < 65536 → wc < 65536 →
         FirstOf
           [(away, Result.wrongState),
            (s.config.headCount ≤ h.toNat ∨ 1023 < thr ∨ 1023 < wc, .badArgument),
            (wc ≤ thr, .badArgument),
            (s.station = .active ∧ ∃ r ∈ s.plans.records, r.live = true ∧ r.head = h.toNat, .busy)]
           result →
         exec (.setHead ([h] ++ byte2 thr ++ byte2 wc)) s = .next (Replied s 0x30 result []))
       ∧ (∀ tag mode : Byte,
         FirstOf
           [(s.station = .halted, Result.wrongState), (1 < mode.toNat, .badArgument),
            (∀ r ∈ s.plans.records, r.tag ≠ tag, .noSuchTag),
            (∃ r, s.plans.find tag = some r ∧ (r.state = .tail ∨ r.state = .finished), .tooLate)] result →
         exec (.cancel [tag, mode]) s = .next (Replied s 0x41 result []))
       ∧ (∀ tag : Byte,
         FirstOf
           [(s.station = .halted, Result.wrongState), (∀ r ∈ s.plans.records, r.tag ≠ tag, .noSuchTag)]
           result →
         exec (.query [tag]) s = .next (Replied s 0x42 result []))
       ∧ (FirstOf
           [(s.station = .halted, Result.wrongState),
            (∀ u ∈ s.plans.finished, ∀ x, s.plans.find u = some x →
              x.state ≠ .finished ∨ x.releasePending = true, .empty)] result →
         exec (.collect []) s = .next (Replied s 0x43 result []))
       ∧ (∀ cal load trim side extent : Byte,
         FirstOf
           [(s.station = .halted, Result.wrongState),
            (1 < cal.toNat ∨ 1 < load.toNat ∨ 1 < trim.toNat ∨ 2 < side.toNat ∨ 16 < extent.toNat
              ∨ (side = 0 ∧ extent ≠ 0), .badArgument),
            (∃ f : Fence, f.side ≠ .none ∧ fenceCode f.side = side.toNat ∧ f.extent = extent.toNat
              ∧ ¬ Widening s.restrictions.fence f, .badArgument)] result →
         exec (.withdraw [cal, load, trim, side, extent]) s = .next (Replied s 0x52 result [])))

/-! ### Reset line and clock -/

/-- The rise of RSTn gives every block its power-on values and reads the station number from the straps; no
reply is held (R174 and the rules it names). The lines stand as they are; the queue and the index of free
values are the model's own. Model's choices: log 10 (idle count), log 14 (no reference pair counts as sent),
log 16 (a POWER_ON while RSTn is high acts so too), log 20 (no JOIN counts as sent), log 38 (the items of the
bit receiver). -/
def Obligations.PowerOnGivesPowerOnValues : Prop :=
  ∀ (s : State) (straps : Station),
    exec (.powerOn straps) s = .next
      { pending := s.pending, free := s.free, pins := { s.pins with rstn := true },
        clock := { revolution := 0, angle := 0, period := none, hold := false, valid := false,
                   pulseSeen := false },
        table := [], plans := { records := [], finished := [], accepted := 0 },
        seq := { current := none, profile := none, captured := none, position := none,
                 firstStep := false, laser := .off, wfault := false, overrun := none },
        drive := { sent := [], references := none }, burst := none,
        store := { bankA := { state := .empty, samples := [],
                              descriptors := List.replicate 64 { first := 0, count := 0 },
                              profiles := List.replicate 16 none },
                   bankB := { state := .empty, samples := [],
                              descriptors := List.replicate 64 { first := 0, count := 0 },
                              profiles := List.replicate 16 none },
                   active := .a, lastSwap := .none, load := none },
        heads := List.replicate 16 { state := .uncal, threshold := 0, write := 0, trim := 0,
                                     source := .set, stamp := none },
        search := none,
        link := { queue := [], onLine := none, bit := 0, receiver := .idle, assembly := [],
                  byteBits := none, lineHigh := true, collisions := 0, collided := none,
                  postSend := false, idleCount := 0 },
        peers := { table := (List.replicate 8 PeerEntry.absentEntry).set straps.toNat
                     { PeerEntry.absentEntry with state := .self },
                   sync := .none, requester := false, awaited := [], requesterPulses := 0,
                   reRequest := false, quiet := none, quietPulses := 0, listenPulses := 0,
                   adopted := false, joinSent := false },
        station := .setup, number := straps,
        config := { bTotal := 0, headCount := 1, linkRate := 1, lMax := 1024, gMin := 0, lateTol := 64,
                    stepDuration := 10, monitorWindow := 16, deviationThreshold := 4,
                    calLength := 400, calLevel := 8, thresholdReference := 32, writeReference := 192,
                    fence := { side := .none, extent := 0 } },
        restrictions := { calibrate := false, load := false, trim := false,
                          fence := { side := .none, extent := 0 } },
        fault := { cause := none, stamp := 0, further := false }, reply := none }

/-- The fall of RSTn turns the laser off, deasserts WFAULT, releases the line; while RSTn is low ATTN is low,
PDO undriven, the line released, and no command but the rise of RSTn is taken: a gate, RAIL_ALERT and the
comparator levels of a step only move their lines, and every other command changes nothing (R174).
Model's choices: logs 11, 16. -/
def Obligations.RstnLowHoldsThePart : Prop :=
  (∀ s : State, s.pins.rstn = true →
    ∃ t, exec .rstnFalls s = .next t
      ∧ t = { s with pins := { s.pins with rstn := false },
                     seq := { s.seq with laser := .off, wfault := false },
                     link := { s.link with onLine := none }, drive := t.drive, free := t.free }
      ∧ OffSent s t ∧ t.attn = false ∧ t.driven = true ∧ ∀ pcs n, t.pdo pcs n = none)
  ∧ (∀ s : State, s.pins.rstn = false →
    exec .wgateRise s = .next { s with pins := { s.pins with wgate := true } }
    ∧ exec .wgateFall s = .next { s with pins := { s.pins with wgate := false } }
    ∧ exec .sgateRise s = .next { s with pins := { s.pins with sgate := true } }
    ∧ exec .sgateFall s = .next { s with pins := { s.pins with sgate := false } }
    ∧ exec .railAlertRise s = .next { s with pins := { s.pins with railAlert := true } }
    ∧ (∀ lo hi, exec (.profileStepEnd lo hi) s
        = .next { s with pins := { s.pins with monlo := lo, monhi := hi } })
    ∧ (∀ lo hi, exec (.calibrationStepEnd lo hi) s
        = .next { s with pins := { s.pins with monlo := lo, monhi := hi } })
    ∧ (∀ c : Instr, (∀ straps, c ≠ .powerOn straps) → c ≠ .wgateRise → c ≠ .wgateFall →
        c ≠ .sgateRise → c ≠ .sgateFall → c ≠ .railAlertRise → (∀ lo hi, c ≠ .profileStepEnd lo hi) →
        (∀ lo hi, c ≠ .calibrationStepEnd lo hi) → exec c s = .next s))

/-- An INDEX pulse steps the revolution, clears angle and hold, and rates the clock where the pulse before it
counts (R2): alone in SETUP and HALTED; where no timeout falls on it, in LISTEN, JOINING and ACTIVE with the
last-heard counts (R145), the pulse counts of LISTEN, QUIET and the requester (R148, R157, R159), the pending
re-request (R157), and in ACTIVE the BEACON (R152). CLOCK_HOLD stops the angle at 4095 with the hold flag set
(R3). A pending swap with no plan executing is resolved before a pulse (R108). Model's choices: log 2 (the
period is the interval given), log 3 (events of the clock), log 12 (the swap first), log 18 (a BEACON on the
line is one that waits), log 26 (order of a pulse), log 39 (deadlines after it). -/
def Obligations.PulseAndHoldMoveTheClock : Prop :=
  ∀ s : State, s.pins.rstn = true →
    (∀ interval u, SwapDue s → StoreSound s → exec .swapResolution s = .next u →
      exec (.indexPulse interval) s = exec (.indexPulse interval) u)
    ∧ (∀ interval, ¬ SwapDue s → s.station = .setup ∨ s.station = .halted →
      exec (.indexPulse interval) s = .next
        { s with clock :=
          { revolution := s.clock.revolution + 1, angle := 0, hold := false, pulseSeen := true,
            valid := s.clock.pulseSeen,
            period := if s.clock.pulseSeen then some interval else none } })
    ∧ (∀ interval, ¬ SwapDue s →
      (s.station = .listen ∧ s.peers.listenPulses = 0) ∨ s.station = .joining ∨ s.station = .active →
      (s.peers.requester = true → s.peers.requesterPulses = 0) →
      (s.peers.quiet ≠ none → s.peers.quietPulses = 0) →
      (∀ e ∈ s.peers.table, e.state = .joining ∨ e.state = .active → e.lastHeard < 3) →
      (∀ n ∈ s.peers.awaited, (s.peers.entry n).state ≠ .lost) →
      ∀ q, q = (if s.peers.reRequest then RequestQueued s.link.queue
          (if s.station = .joining then .join else .syncRequest) else s.link.queue) →
      exec (.indexPulse interval) s = .next
        { s with
          clock :=
            { revolution := s.clock.revolution + 1, angle := 0, hold := false, pulseSeen := true,
              valid := s.clock.pulseSeen,
              period := if s.clock.pulseSeen then some interval else none },
          peers := { s.peers with
            table := s.peers.table.map (fun e =>
              if e.state = .joining ∨ e.state = .active then { e with lastHeard := e.lastHeard + 1 }
              else e),
            listenPulses := if s.station = .listen then 1 else s.peers.listenPulses,
            quietPulses := if s.peers.quiet ≠ none then 1 else s.peers.quietPulses,
            requesterPulses := if s.peers.requester then 1 else s.peers.requesterPulses,
            reRequest := false },
          link := { s.link with queue :=
            if s.station ≠ .active ∨ TxEntry.beacon ∈ q then q else q ++ [.beacon] } })
    ∧ (s.clock.valid = true → s.clock.hold = false → (SwapDue s → s.clock.angle = 4095) →
      (∀ t c, ClockEvent s t c → timeBefore t (s.clock.revolution ++ (4095#12)) = false) →
      exec .clockHold s = .next { s with clock := { s.clock with angle := 4095, hold := true } })

/-- Spindle loss outside HALTED finishes every live record SPINDLE at the held time, turns the laser off,
asserts WFAULT if WGATE is high, clears table, peers and link traffic, completes a pending swap, marks or
trims the head of an open burst by its report, writes SPINDLE_LOST and begins LISTEN, or stays in SETUP; in
HALTED it reaches the clock and the fault record alone (R11 to R13, R95, R96, R99).
Model's choices: logs 5, 11, 12, 20, 34. -/
def Obligations.SpindleLossClearsTheSharedView : Prop :=
  ∀ s : State, s.pins.rstn = true → s.clock.valid = true → s.clock.hold = true → QueueSound s →
    (s.station ≠ .halted → StoreSound s →
      ∃ t, exec .spindleLoss s = .next t
        ∧ t = { s with
            clock := { s.clock with period := none, valid := false, pulseSeen := false },
            station := if s.station = .setup then .setup else .listen,
            table := [], burst := none, search := none,
            plans := { s.plans with
              records := s.plans.records.map (fun r =>
                if r.live then endedRecord r .spindle s.now
                  ((s.burst.filter (fun b => decide (b.tag = r.tag))).map
                    (fun b => b.report s.config.deviationThreshold)) none none false
                else { r with releasePending := false }),
              finished := s.plans.finished ++ (s.plans.records.filter Record.live).map Record.tag },
            seq := { current := none, profile := none, captured := none, position := none,
                     firstStep := false, laser := .off, wfault := s.seq.wfault || s.pins.wgate,
                     overrun := none },
            link := { s.link with queue := [], onLine := s.link.onLine.map (fun o =>
                { o with discard := true }), collisions := 0, collided := none, postSend := false },
            peers :=
              { table := (List.replicate 8 PeerEntry.absentEntry).set s.number.toNat
                  { PeerEntry.absentEntry with state := .self },
                sync := .none, requester := false, awaited := [], requesterPulses := 0,
                reRequest := false, quiet := none, quietPulses := 0, listenPulses := 0,
                adopted := false, joinSent := false },
            fault := FaultWritten s.fault .spindleLost s.now,
            store := t.store, heads := t.heads, drive := t.drive, free := t.free }
        ∧ OffSent s t
        ∧ (s.store.standbyBank.state ≠ .swapPending → t.store = s.store)
        ∧ (s.store.standbyBank.state = .swapPending →
            t.store.active ≠ s.store.active ∧ t.store.standbyBank = s.store.activeBank
            ∧ t.store.activeBank = { s.store.standbyBank with state := .ready }
            ∧ t.store.lastSwap = .done)
        ∧ (s.burst = none → t.heads = s.heads)
        ∧ (∀ b h m suspect, s.burst = some b → s.heads[b.head]? = some h →
            m = b.report s.config.deviationThreshold → (suspect = true ↔ Distrusts s h m) →
            t.heads = s.heads.set b.head (HeadAfter s h m suspect)))
    ∧ (s.station = .halted →
      exec .spindleLoss s = .next
        { s with clock := { s.clock with period := none, valid := false, pulseSeen := false },
                 fault := FaultWritten s.fault .spindleLost s.now })

/-- The four timeouts are INDEX pulses (the model's choice, log 4): where its event is due, each is the INDEX
pulse of its interval, and all that a pulse does happens (Pulsed): a peer's fourth silent revolution, in LISTEN,
JOINING or ACTIVE, makes it LOST and drops it from the awaited set (R145, R155); the second pulse of LISTEN
enters JOINING with a JOIN queued, at revolution 0 where none was adopted (R148, R150); the second pulse of a
requester gives its resynchronisation up, unless its SYNC-DONE is on the line (R157); the second pulse of QUIET
ends it (R159). A pending swap with no plan executing is resolved before the pulse (R108). Model's choices: log 2
(the period is the interval), log 26 for the order of a pulse, log 12 for the swap, log 18 (an entry on the line
is one that waits), log 33 (the SYNC-DONE unsent), log 39 for the deadlines after it. -/
def Obligations.TimeoutsActAtTheirPulse : Prop :=
  ∀ (s : State) (interval : Nat), s.pins.rstn = true → s.peers.table.length = 8 →
    (∀ u c, SwapDue s → StoreSound s → exec .swapResolution s = .next u →
      (∃ n, c = .peerLost n interval) ∨ c = .listenEnd interval ∨ c = .resyncTimeout interval
        ∨ c = .quietTimeout interval →
      exec c s = exec c u)
    ∧ (∀ c, (s.station = .listen ∨ s.station = .joining ∨ s.station = .active) →
      (∃ n, c = .peerLost n interval ∧ 3 ≤ (s.peers.entry n).lastHeard
          ∧ ((s.peers.entry n).state = .joining ∨ (s.peers.entry n).state = .active))
        ∨ (c = .listenEnd interval ∧ s.station = .listen ∧ 1 ≤ s.peers.listenPulses)
        ∨ (c = .resyncTimeout interval ∧ TimesOut s)
        ∨ (c = .quietTimeout interval ∧ s.peers.quiet ≠ none ∧ 1 ≤ s.peers.quietPulses) →
      exec c s = exec (.indexPulse interval) s)
    ∧ (¬ SwapDue s →
      ((s.station = .listen ∧ s.peers.listenPulses = 0) ∨ s.station = .joining ∨ s.station = .active →
        ∀ t, (TimesOut s ∧ t = GivenUp (Pulsed s interval) ∨ ¬ TimesOut s ∧ t = Pulsed s interval) →
        exec (.indexPulse interval) s = .next t
        ∧ (∀ n : Station, (s.peers.entry n).state = .joining ∨ (s.peers.entry n).state = .active →
          (s.peers.entry n).lastHeard = 3 →
          exec (.peerLost n interval) s = .next t
          ∧ (t.peers.entry n).state = .lost ∧ (t.peers.entry n).lastHeard = 4
          ∧ (t.peers.entry n).unit = (s.peers.entry n).unit
          ∧ (t.peers.entry n).digest = (s.peers.entry n).digest ∧ n ∉ t.peers.awaited)
        ∧ (s.peers.requester = true → s.peers.requesterPulses = 1 → TimesOut s →
          exec (.resyncTimeout interval) s = .next t
          ∧ t.peers.sync = .desync ∧ t.peers.requester = false ∧ t.peers.awaited = []
          ∧ (∀ e ∈ t.peers.table, e.announced = false) ∧ t.peers.reRequest = true
          ∧ TxEntry.syncDone ∉ t.link.queue)
        ∧ (∀ n, s.peers.quiet = some n → s.peers.quietPulses = 1 →
          exec (.quietTimeout interval) s = .next t ∧ t.peers.quiet = none))
      ∧ (s.station = .listen → s.peers.listenPulses = 1 → s.peers.requester = false →
        s.peers.reRequest = false → s.peers.quiet = none → s.peers.awaited = [] →
        exec (.listenEnd interval) s = .next
          { s with
            clock := { ClockPulsed s.clock interval with
              revolution := if s.peers.adopted then s.clock.revolution + 1 else 0 },
            station := .joining,
            peers := { s.peers with sync := .desync, listenPulses := 2,
                                    table := s.peers.table.map EntryPulsed },
            link := { s.link with queue := RequestQueued s.link.queue .join } }))

/-- A rise of WGATE by the current plan (Table 4-3): in READY it starts the write with its burst and the first
write sample's code and references (R70, R88, R89); in PREHEAT it ends COLD_WRITE (R74), in PAUSED from
READY SERVO_CLASH (R77), in CALIBRATING INTERRUPTED (R81); with no plan that takes it, it is a stray gate
(R84, R85). Model's choices: log 14. -/
def Obligations.WgateRiseByPlanState : Prop :=
  (∀ (s : State) (r : Record) (p : Profile) (v : HeadValues) (sample target code low high : Nat),
    s.pins.wgate = false → Executing s r → r.state = .ready → s.seq.profile = some p →
    s.seq.captured = some v →
    sample = (Memory.read s.store.activeBank.samples
      (s.store.activeBank.descriptor p.write).first).toNat →
    code = levelCode v sample → target = s.config.writeReference * sample / 255 →
    low = target - s.config.monitorWindow → high = min (target + s.config.monitorWindow) 255 →
    exec .wgateRise s = .next
      { s with
        pins := { s.pins with wgate := true },
        plans := s.plans.update r.tag (fun x => { x with state := .writing }),
        burst := some
          { tag := r.tag, head := r.head, boundary1 := timePlus r.planStart (r.length / 4),
            boundary2 := timePlus r.planStart (2 * r.length / 4),
            boundary3 := timePlus r.planStart (3 * r.length / 4), sampling := true, target := target,
            q0 := 0, q1 := 0, q2 := 0, q3 := 0, low := 0, high := 0 },
        seq := { s.seq with
          firstStep := true, laser := .on r.head code,
          position := some { phase := .write, segment := 0, sample := some 0 } },
        drive := { sent := s.drive.sent ++ DriveSent s r.head code ++ PairSent s low high,
                   references := some (low, high) } })
  ∧ (∀ (s u : State) (r : Record) (o : PlanOutcome), s.pins.wgate = false → Executing s r →
    s.burst = none →
    (o = .coldWrite ∧ (r.state = .preheat ∨ r.state = .paused .preheat)
      ∨ o = .servoClash ∧ r.state = .paused .ready ∨ o = .interrupted ∧ r.state = .calibrating) →
    u = { s with pins := { s.pins with wgate := true }, seq := { s.seq with wfault := true } } →
    ∃ t, exec .wgateRise s = .next t ∧ PlanEnded u r o (some s.now) none none t)
  ∧ (∀ s : State, s.pins.wgate = false → s.pins.rstn = true →
    (s.seq.current = none ∨ s.station = .halted ∨ (∃ r, Executing s r ∧ r.state = .tail)) →
    exec .wgateRise s = .next
      { s with pins := { s.pins with wgate := true }, seq := { s.seq with wfault := true },
               fault := FaultWritten s.fault .strayGate s.now })

/-- A fall of WGATE releases WFAULT (R83); in WRITING and PAUSED from WRITING it begins the tail at its first
sample, the monitor no longer sampling, or, where the profile has no tail, ends the plan DONE, or CANCELLED
where a SEGMENT_END cancel is pending (R56, R75), with what the report of the burst brings (R95, R96). Model's
choices: log 40 (a pending SEGMENT_END cancel stays the cancel-pending mode in the tail, which no rule says),
logs 11, 12, 14. -/
def Obligations.WgateFallEndsTheWrite : Prop :=
  (∀ s : State, s.pins.wgate = true → s.pins.rstn = true →
    (s.seq.current = none ∨ s.station = .halted
      ∨ (∃ r, Executing s r ∧ r.state ≠ .writing ∧ r.state ≠ .paused .writing)) →
    exec .wgateFall s = .next
      { s with pins := { s.pins with wgate := false }, seq := { s.seq with wfault := false } })
  ∧ (∀ (s : State) (r : Record) (p : Profile) (v : HeadValues) (d : Nat) (ds : List Nat) (code : Nat),
    s.pins.wgate = true → Executing s r → r.state = .writing ∨ r.state = .paused .writing →
    s.seq.profile = some p → s.seq.captured = some v → p.tail = d :: ds →
    code = levelCode v (Memory.read s.store.activeBank.samples
      (s.store.activeBank.descriptor d).first).toNat →
    exec .wgateFall s = .next
      { s with
        pins := { s.pins with wgate := false },
        plans := s.plans.update r.tag (fun x => { x with state := .tail, cancel := r.cancel }),
        burst := s.burst.map (fun b => { b with sampling := false }),
        seq := { s.seq with
          wfault := false, firstStep := false, overrun := none, laser := .on r.head code,
          position := some { phase := .tail, segment := 0, sample := some 0 } },
        drive := { s.drive with sent := s.drive.sent ++ DriveSent s r.head code } })
  ∧ (∀ (s u : State) (r : Record) (p : Profile) (report : Option Report),
    s.pins.wgate = true → Executing s r → r.state = .writing ∨ r.state = .paused .writing →
    s.seq.profile = some p → p.tail = [] → r.cancel ≠ some .immediate →
    report = s.burst.map (fun b => b.report s.config.deviationThreshold) →
    u = { s with pins := { s.pins with wgate := false }, seq := { s.seq with wfault := false } } →
    EndsPlan .wgateFall s u r (if r.cancel = some .segmentEnd then .cancelled else .done) none report none)

/-- A rise of SGATE pauses PREHEAT, READY with WGATE low and WRITING past its first step at the hold sample
(R71), and is a clash in READY with WGATE high and in WRITING's first step (R77); a fall resumes what the
pause remembers (R72): READY stays at the hold sample; PREHEAT goes on as at the end of the frozen sample's
step; WRITING goes on with the next sample, after the last of a pass with the first again, or begins the tail
there where a SEGMENT_END cancel is pending, WFAULT asserted if WGATE is high (R56).
Model's choices: logs 14, 21, 40. -/
def Obligations.SgatePausesAndResumes : Prop :=
  (∀ (s : State) (r : Record) (p : Profile) (v : HeadValues) (m : PauseFrom) (code : Nat),
    s.pins.sgate = false → Executing s r → s.seq.profile = some p → s.seq.captured = some v →
    (m = .preheat ∧ r.state = .preheat ∨ m = .ready ∧ r.state = .ready ∧ s.pins.wgate = false
      ∨ m = .writing ∧ r.state = .writing ∧ s.seq.firstStep = false) →
    code = levelCode v p.hold →
    exec .sgateRise s = .next
      { s with
        pins := { s.pins with sgate := true },
        plans := s.plans.update r.tag (fun x => { x with state := .paused m }),
        burst := s.burst.map (fun b => { b with sampling := false }),
        seq := { s.seq with laser := .on r.head code },
        drive := { s.drive with sent := s.drive.sent ++ DriveSent s r.head code } })
  ∧ (∀ (s u : State) (r : Record) (p : Profile) (report : Option Report),
    s.pins.sgate = false → Executing s r → s.seq.profile = some p →
    report = s.burst.map (fun b => b.report s.config.deviationThreshold) →
    (r.state = .ready ∧ s.pins.wgate = true ∨ r.state = .writing ∧ s.seq.firstStep = true) →
    u = { s with pins := { s.pins with sgate := true },
                 seq := { s.seq with wfault := s.seq.wfault || s.pins.wgate } } →
    EndsPlan .sgateRise s u r .servoClash (some s.now) report none)
  ∧ (∀ (s : State) (r : Record), s.pins.sgate = true → Executing s r → r.state = .paused .ready →
    exec .sgateFall s = .next
      { s with pins := { s.pins with sgate := false },
               plans := s.plans.update r.tag (fun x => { x with state := .ready }) })
  ∧ (∀ (s u : State) (r : Record) (p : Profile) (pos : Position),
    s.pins.sgate = true → Executing s r → s.seq.profile = some p → s.seq.position = some pos →
    r.state = .paused .preheat →
    u = { s with pins := { s.pins with sgate := false },
                 plans := s.plans.update r.tag (fun x => { x with state := .preheat }) } →
    exec .sgateFall s = exec (.profileStepEnd s.pins.monlo s.pins.monhi) u)
  ∧ (∀ (s : State) (r : Record) (p : Profile) (v : HeadValues) (pos : Position) (k d : Nat)
      (m : PauseFrom) (sample code : Nat),
    s.pins.sgate = true → Executing s r → s.seq.profile = some p → s.seq.captured = some v →
    s.seq.position = some pos → pos.sample = some k →
    (m = .preheat ∧ pos.phase = .preheat ∧ r.state = .paused .preheat ∧ p.preheat[pos.segment]? = some d
      ∨ m = .writing ∧ pos.phase = .write ∧ r.state = .paused .writing ∧ pos.segment = 0
        ∧ p.write = d) →
    k + 1 < (s.store.activeBank.descriptor d).count →
    sample = (Memory.read s.store.activeBank.samples
      ((s.store.activeBank.descriptor d).first + (k + 1))).toNat →
    code = levelCode v sample →
    ∃ t, exec .sgateFall s = .next t
      ∧ t = { s with
          pins := { s.pins with sgate := false },
          plans := s.plans.update r.tag (fun x => { x with state :=
            match m with | .preheat => .preheat | .ready => .ready | .writing => .writing }),
          seq := { s.seq with laser := .on r.head code,
                              position := some { pos with sample := some (k + 1) } },
          burst := t.burst, drive := t.drive }
      ∧ (m = .preheat → t.burst = s.burst
          ∧ t.drive = { s.drive with sent := s.drive.sent ++ DriveSent s r.head code })
      ∧ (m = .writing → t.burst = s.burst.map (fun b => { b with
          sampling := true, target := s.config.writeReference * sample / 255 })))
  ∧ (∀ (s : State) (r : Record) (p : Profile) (v : HeadValues) (pos : Position) (k : Nat),
    s.pins.sgate = true → Executing s r → s.seq.profile = some p → s.seq.captured = some v →
    s.seq.position = some pos → pos.sample = some k → r.state = .paused .writing →
    pos.phase = .write → pos.segment = 0 →
    (∀ next sample target code low high,
      r.cancel ≠ some .segmentEnd ∨ k + 1 < (s.store.activeBank.descriptor p.write).count →
      next = (if k + 1 < (s.store.activeBank.descriptor p.write).count then k + 1 else 0) →
      sample = (Memory.read s.store.activeBank.samples
        ((s.store.activeBank.descriptor p.write).first + next)).toNat →
      code = levelCode v sample → target = s.config.writeReference * sample / 255 →
      low = target - s.config.monitorWindow → high = min (target + s.config.monitorWindow) 255 →
      exec .sgateFall s = .next
        { s with
          pins := { s.pins with sgate := false },
          plans := s.plans.update r.tag (fun x => { x with state := .writing }),
          burst := s.burst.map (fun b => { b with sampling := true, target := target }),
          seq := { s.seq with laser := .on r.head code,
                              position := some { phase := .write, segment := 0, sample := some next } },
          drive := { sent := s.drive.sent ++ DriveSent s r.head code ++ PairSent s low high,
                     references := some (low, high) } })
    ∧ (r.cancel = some .segmentEnd → (s.store.activeBank.descriptor p.write).count ≤ k + 1 →
      (∀ d ds code, p.tail = d :: ds →
        code = levelCode v (Memory.read s.store.activeBank.samples
          (s.store.activeBank.descriptor d).first).toNat →
        exec .sgateFall s = .next
          { s with
            pins := { s.pins with sgate := false },
            plans := s.plans.update r.tag (fun x =>
              { x with state := .tail, cancel := some .segmentEnd }),
            burst := s.burst.map (fun b => { b with sampling := false }),
            seq := { s.seq with
              wfault := s.seq.wfault || s.pins.wgate, firstStep := false, overrun := none,
              laser := .on r.head code,
              position := some { phase := .tail, segment := 0, sample := some 0 } },
            drive := { s.drive with sent := s.drive.sent ++ DriveSent s r.head code } })
      ∧ (∀ u report, p.tail = [] → report = s.burst.map (fun b => b.report s.config.deviationThreshold) →
        u = { s with pins := { s.pins with sgate := false },
                     seq := { s.seq with wfault := s.seq.wfault || s.pins.wgate } } →
        EndsPlan .sgateFall s u r .cancelled none report none)))

/-- The commands that end the current plan at once, each with the laser off, the record finished with its
outcome and stamps, the report of an open burst and the RELEASE of R50: RAIL_ALERT in any executing state
(R82), the write-start deadline before the write (R73), the window end in TAIL with the outcome the tail
was entered for (R75, R76, R56). What follows an ending with a report: nothing after CLEAN or DRIFT; one trim
step after MARGINAL, made by the tallies unless TRIM is withdrawn (R95); the head SUSPECT, its QUEUED and
GRANTED WRITE records finished HEAD_SUSPECT, after LOSS or where a trim step would pass ±31 (R86, R96, R126);
a pending swap may be resolved before those endings (R108). Model's choices: logs 3, 12, 19, 33, 36, 40. -/
def Obligations.EventsThatEndThePlan : Prop :=
  (∀ (s : State) (r : Record) (report : Option Report), Executing s r → NoCorrection s report →
    (r.executing = true →
      ∃ t, exec .railAlertRise s = .next t
        ∧ PlanEnded { s with pins := { s.pins with railAlert := true },
                             seq := { s.seq with wfault := s.seq.wfault || s.pins.wgate } }
            r .rail (some s.now) report none t)
    ∧ (∀ p, s.seq.profile = some p →
      r.state = .preheat ∨ r.state = .ready ∨ r.state = .paused .preheat ∨ r.state = .paused .ready →
      (timeBefore s.now (timePlus r.planStart s.config.lateTol) = false
        ∨ timeBefore s.now (timeMinus r.windowEnd p.tailAllowance) = false) →
      -524288 < timeDiff s.now (timePlus r.planStart s.config.lateTol) →
      timeDiff (timePlus r.planStart s.config.lateTol) (timeMinus r.windowEnd p.tailAllowance) ≤ 8192 →
      -8192 ≤ timeDiff (timePlus r.planStart s.config.lateTol) (timeMinus r.windowEnd p.tailAllowance) →
      timeDiff s.now (timePlus r.planStart s.config.lateTol) ≤ 262144 →
      -262144 ≤ timeDiff s.now (timePlus r.planStart s.config.lateTol) →
      ∃ t, exec .writeStartDeadline s = .next t ∧ PlanEnded s r .missed (some s.now) report none t)
    ∧ (r.state = .tail → timeBefore s.now r.windowEnd = false →
      ∃ t, exec .windowEndReached s = .next t
        ∧ (∀ stamp, s.seq.overrun = some stamp → PlanEnded s r .overrun (some stamp) report none t)
        ∧ (s.seq.overrun = none → r.cancel = some .segmentEnd →
            PlanEnded s r .cancelled none report none t)
        ∧ (s.seq.overrun = none → r.cancel ≠ some .segmentEnd →
            PlanEnded s r .done none report none t)))
  ∧ (∀ (s : State) (r : Record) (report : Option Report), Executing s r →
    report = s.burst.map (fun b => b.report s.config.deviationThreshold) →
    (r.executing = true →
      ∃ u, exec .railAlertRise s = .next (u.afterBurst r.head report)
        ∧ PlanEnded { s with pins := { s.pins with railAlert := true },
                             seq := { s.seq with wfault := s.seq.wfault || s.pins.wgate } }
            r .rail (some s.now) report none u)
    ∧ (r.state = .tail → timeBefore s.now r.windowEnd = false →
      ∃ u, exec .windowEndReached s = .next (u.afterBurst r.head report)
        ∧ (∀ stamp, s.seq.overrun = some stamp → PlanEnded s r .overrun (some stamp) report none u)
        ∧ (s.seq.overrun = none → r.cancel = some .segmentEnd →
            PlanEnded s r .cancelled none report none u)
        ∧ (s.seq.overrun = none → r.cancel ≠ some .segmentEnd →
            PlanEnded s r .done none report none u)))
  ∧ (∀ (u : State) (head : Nat), u.afterBurst head none = u
    ∧ ∀ (h : HeadRecord) (m : Report) (suspect : Bool), QueueSound u → u.heads[head]? = some h →
      (suspect = true ↔ Distrusts u h m) →
      (suspect = false ∨ u.store.standbyBank.state ≠ .swapPending →
        u.afterBurst head (some m) = AfterReport u head h m suspect)
      ∧ (suspect = true → SwapDue u →
        ∃ v, (v = u ∨ exec .swapResolution u = .next v)
          ∧ u.afterBurst head (some m) = AfterReport { v with free := u.free + 1 } head h m true))

/-- The opening of a GRANTED record's window, its time reached and no plan executing: a WRITE record becomes
the current plan with the head values captured, in PREHEAT at its first sample, or paused before it where
SGATE is high (R68); a CAL record begins the search at step 1 with trial code 512 (R79, R120, R121); with
RAIL_ALERT asserted either finishes RAIL with a RELEASE at its window start (R68, R79, R82). Windows whose times
one pulse has passed open in the order of their times: before its turn a window does not open (R4).
Model's choices: logs 7, 14, 22, 25. -/
def Obligations.WindowOpensForGrantedRecord : Prop :=
  ∀ (s : State) (r : Record), s.pins.rstn = true → s.station ≠ .halted → s.seq.current = none →
    s.plans.find r.tag = some r → r.state = .granted →
    (∀ (p : Profile) (h : HeadRecord) (code : Nat), r.kind = .write →
      s.store.activeBank.profile r.zone = some p → s.heads[r.head]? = some h →
      timeBefore s.now (timeMinus r.planStart p.lead) = false → OpensInTurn s (timeMinus r.planStart p.lead) →
      (s.pins.sgate = false →
        code = levelCode { threshold := h.threshold, write := h.write, trim := h.trim }
          (Memory.read s.store.activeBank.samples
            (s.store.activeBank.descriptor (p.preheat.getD 0 0)).first).toNat →
        exec (.writeWindowOpens r.tag false) s = .next
          { s with
            pins := { s.pins with railAlert := false },
            plans := s.plans.update r.tag (fun x => { x with state := .preheat }),
            seq := { s.seq with
              current := some r.tag, profile := some p, overrun := none, laser := .on r.head code,
              captured := some { threshold := h.threshold, write := h.write, trim := h.trim },
              position := some { phase := .preheat, segment := 0, sample := some 0 } },
            drive := { s.drive with sent := s.drive.sent ++ DriveSent s r.head code } })
      ∧ (s.pins.sgate = true →
        code = levelCode { threshold := h.threshold, write := h.write, trim := h.trim } p.hold →
        exec (.writeWindowOpens r.tag false) s = .next
          { s with
            pins := { s.pins with railAlert := false },
            plans := s.plans.update r.tag (fun x => { x with state := .paused .preheat }),
            burst := s.burst.map (fun b => { b with sampling := false }),
            seq := { s.seq with
              current := some r.tag, profile := some p, overrun := none, laser := .on r.head code,
              captured := some { threshold := h.threshold, write := h.write, trim := h.trim },
              position := some { phase := .preheat, segment := 0, sample := none } },
            drive := { s.drive with sent := s.drive.sent ++ DriveSent s r.head code } }))
    ∧ (r.kind = .cal → timeBefore s.now r.windowStart = false → OpensInTurn s r.windowStart →
      exec (.calWindowOpens r.tag false) s = .next
        { s with
          pins := { s.pins with railAlert := false },
          plans := s.plans.update r.tag (fun x => { x with state := .calibrating }),
          seq := { s.seq with current := some r.tag, profile := none, captured := none, overrun := none,
                              laser := .on r.head 512 },
          search := some { tag := r.tag, head := r.head, step := 1, threshold := 0, offset := 0,
                           monlo := 0 },
          drive := { sent := s.drive.sent ++ PairSent s 0 s.config.thresholdReference
                       ++ DriveSent s r.head 512,
                     references := some (0, s.config.thresholdReference) } })
    ∧ (∀ c : Instr,
      (c = .calWindowOpens r.tag true ∧ r.kind = .cal ∧ timeBefore s.now r.windowStart = false
          ∧ OpensInTurn s r.windowStart
        ∨ ∃ p, c = .writeWindowOpens r.tag true ∧ r.kind = .write
          ∧ s.store.activeBank.profile r.zone = some p
          ∧ timeBefore s.now (timeMinus r.planStart p.lead) = false
          ∧ OpensInTurn s (timeMinus r.planStart p.lead)) →
      exec c s = .next
        { s with
          pins := { s.pins with railAlert := true },
          seq := { s.seq with wfault := s.seq.wfault || s.pins.wgate },
          plans := { s.plans with
            records := s.plans.records.map (fun x =>
              if x.tag = r.tag then endedRecord x .rail s.now none none (some s.now) true else x),
            finished := s.plans.finished ++ [r.tag] },
          link := { s.link with queue := s.link.queue ++ [.release r.claim r.windowStart] } })
    ∧ (∀ rail, (r.kind = .cal → ¬ OpensInTurn s r.windowStart →
        exec (.calWindowOpens r.tag rail) s = .next s)
      ∧ (∀ p, r.kind = .write → s.store.activeBank.profile r.zone = some p →
        ¬ OpensInTurn s (timeMinus r.planStart p.lead) →
        exec (.writeWindowOpens r.tag rail) s = .next s))

/-- The transmit deadline finishes a QUEUED record LATE and withdraws its CLAIM (R46); the write deadline turns
a write into an overrun tail, its stamp kept for the finish, a pending cancel dropped, WFAULT asserted if
WGATE is high (R76); a profile without tail segments ends OVERRUN in the same action (R75), with what the report
of the burst brings (R95, R96). Model's choices: logs 3, 11, 12, 14, 19, 33. -/
def Obligations.DeadlinesOfQueuedAndWriting : Prop :=
  (∀ (s : State) (r : Record), s.pins.rstn = true → s.station ≠ .halted →
    s.plans.find r.tag = some r → r.state = .queued →
    timeBefore s.now (timeMinus r.windowStart 512) = false →
    ∃ t, exec (.transmitDeadline r.tag) s = .next t
      ∧ t = { s with plans := t.plans, link := t.link }
      ∧ t.plans = { s.plans with
          records := s.plans.records.map (fun x =>
            if x.tag = r.tag then endedRecord x .late s.now none none none false else x),
          finished := s.plans.finished ++ [r.tag] }
      ∧ t.link = { s.link with queue := t.link.queue, collisions := t.link.collisions,
                               collided := t.link.collided }
      ∧ t.link.queue = s.link.queue.filter (fun e => decide (e.key ≠ .claim r.claim))
      ∧ (s.link.collided = some (.claim r.claim) → t.link.collisions = 0 ∧ t.link.collided = none)
      ∧ (s.link.collided ≠ some (.claim r.claim) →
          t.link.collisions = s.link.collisions ∧ t.link.collided = s.link.collided))
  ∧ (∀ (s : State) (r : Record) (p : Profile) (v : HeadValues) (d : Nat) (ds : List Nat) (code : Nat),
    Executing s r → r.state = .writing ∨ r.state = .paused .writing → s.seq.profile = some p →
    s.seq.captured = some v → p.tail = d :: ds →
    timeBefore s.now (timeMinus r.windowEnd p.tailAllowance) = false →
    code = levelCode v (Memory.read s.store.activeBank.samples
      (s.store.activeBank.descriptor d).first).toNat →
    exec .writeDeadline s = .next
      { s with
        plans := s.plans.update r.tag (fun x => { x with state := .tail, cancel := none }),
        burst := s.burst.map (fun b => { b with sampling := false }),
        seq := { s.seq with
          wfault := s.seq.wfault || s.pins.wgate, firstStep := false, overrun := some s.now,
          laser := .on r.head code,
          position := some { phase := .tail, segment := 0, sample := some 0 } },
        drive := { s.drive with sent := s.drive.sent ++ DriveSent s r.head code } })
  ∧ (∀ (s : State) (r : Record) (p : Profile) (report : Option Report),
    Executing s r → r.state = .writing ∨ r.state = .paused .writing → s.seq.profile = some p →
    p.tail = [] → timeBefore s.now (timeMinus r.windowEnd p.tailAllowance) = false →
    report = s.burst.map (fun b => b.report s.config.deviationThreshold) →
    EndsPlan .writeDeadline s { s with seq := { s.seq with wfault := s.seq.wfault || s.pins.wgate } } r
      .overrun (some s.now) report none)

/-- The end of a profile step: the next sample of the segment is sent in PREHEAT and TAIL, after its last the
first of the next segment (R67); the last preheat sample leads to READY at the hold sample, and there with
SGATE high to PAUSED from READY or, WGATE high too, to SERVO_CLASH (R69); in WRITING the monitor reads the
comparators, the first-step flag clears and the next sample goes out, after the last of a pass the first
again (R67, R70, R89, R90). A SEGMENT_END cancel ends the plan CANCELLED at the end of a preheat segment, and
begins the tail at the end of a pass, WFAULT asserted if WGATE is high (R55, R56). The last tail sample ends
the plan with the outcome the tail was entered for (R75, R76, R56), and each ending with what the report of the
burst brings (R95, R96). Model's choices: logs 8, 11, 12, 14, 21, 32, 40, and log 36 (the clash on entry to READY
sends the hold-sample message before the off message). -/
def Obligations.ProfileStepAdvancesPlay : Prop :=
  ∀ (s : State) (r : Record) (p : Profile) (v : HeadValues) (pos : Position) (k : Nat) (lo hi : Bool),
    Executing s r → s.seq.profile = some p → s.seq.captured = some v → s.seq.position = some pos →
    pos.sample = some k →
    (∀ d code, (r.state = .preheat ∧ pos.phase = .preheat ∧ p.preheat[pos.segment]? = some d
        ∨ r.state = .tail ∧ pos.phase = .tail ∧ p.tail[pos.segment]? = some d) →
      k + 1 < (s.store.activeBank.descriptor d).count →
      code = levelCode v (Memory.read s.store.activeBank.samples
        ((s.store.activeBank.descriptor d).first + (k + 1))).toNat →
      exec (.profileStepEnd lo hi) s = .next
        { s with
          pins := { s.pins with monlo := lo, monhi := hi },
          seq := { s.seq with laser := .on r.head code,
                              position := some { pos with sample := some (k + 1) } },
          drive := { s.drive with sent := s.drive.sent ++ DriveSent s r.head code } })
    ∧ (∀ d d' code, (r.state = .preheat ∧ pos.phase = .preheat ∧ r.cancel ≠ some .segmentEnd
          ∧ p.preheat[pos.segment]? = some d ∧ p.preheat[pos.segment + 1]? = some d'
        ∨ r.state = .tail ∧ pos.phase = .tail
          ∧ p.tail[pos.segment]? = some d ∧ p.tail[pos.segment + 1]? = some d') →
      (s.store.activeBank.descriptor d).count ≤ k + 1 →
      code = levelCode v (Memory.read s.store.activeBank.samples
        (s.store.activeBank.descriptor d').first).toNat →
      exec (.profileStepEnd lo hi) s = .next
        { s with
          pins := { s.pins with monlo := lo, monhi := hi },
          seq := { s.seq with laser := .on r.head code,
                              position := some { phase := pos.phase, segment := pos.segment + 1,
                                                 sample := some 0 } },
          drive := { s.drive with sent := s.drive.sent ++ DriveSent s r.head code } })
    ∧ (∀ d code, r.state = .preheat → pos.phase = .preheat → p.preheat[pos.segment]? = some d →
      (s.store.activeBank.descriptor d).count ≤ k + 1 → p.preheat.length = pos.segment + 1 →
      r.cancel ≠ some .segmentEnd → code = levelCode v p.hold →
      (s.pins.sgate = false ∨ s.pins.wgate = false →
        exec (.profileStepEnd lo hi) s = .next
          { s with
            pins := { s.pins with monlo := lo, monhi := hi },
            plans := s.plans.update r.tag (fun x =>
              { x with state := if s.pins.sgate then .paused .ready else .ready }),
            seq := { s.seq with laser := .on r.head code },
            drive := { s.drive with sent := s.drive.sent ++ DriveSent s r.head code } })
      ∧ (s.pins.sgate = true → s.pins.wgate = true → s.burst = none →
        ∃ t, exec (.profileStepEnd lo hi) s = .next t
          ∧ PlanEnded
              { s with
                pins := { s.pins with monlo := lo, monhi := hi },
                seq := { s.seq with laser := .on r.head code, wfault := true },
                drive := { s.drive with sent := s.drive.sent ++ DriveSent s r.head code } }
              r .servoClash (some s.now) none none t))
    ∧ (∀ d report, r.state = .preheat → pos.phase = .preheat → p.preheat[pos.segment]? = some d →
      (s.store.activeBank.descriptor d).count ≤ k + 1 → r.cancel = some .segmentEnd →
      report = s.burst.map (fun b => b.report s.config.deviationThreshold) →
      EndsPlan (.profileStepEnd lo hi) s { s with pins := { s.pins with monlo := lo, monhi := hi } } r
        .cancelled none report none)
    ∧ (∀ b next sample target code low high, r.state = .writing → pos.phase = .write →
      pos.segment = 0 → s.burst = some b →
      r.cancel ≠ some .segmentEnd ∨ k + 1 < (s.store.activeBank.descriptor p.write).count →
      next = (if k + 1 < (s.store.activeBank.descriptor p.write).count then k + 1 else 0) →
      sample = (Memory.read s.store.activeBank.samples
        ((s.store.activeBank.descriptor p.write).first + next)).toNat →
      code = levelCode v sample → target = s.config.writeReference * sample / 255 →
      low = target - s.config.monitorWindow → high = min (target + s.config.monitorWindow) 255 →
      exec (.profileStepEnd lo hi) s = .next
        { s with
          pins := { s.pins with monlo := lo, monhi := hi },
          burst := some { b.reading s.now lo hi with sampling := true, target := target },
          seq := { s.seq with firstStep := false, laser := .on r.head code,
                              position := some { phase := .write, segment := 0, sample := some next } },
          drive := { sent := s.drive.sent ++ DriveSent s r.head code ++ PairSent s low high,
                     references := some (low, high) } })
    ∧ (∀ b, r.state = .writing → pos.phase = .write → pos.segment = 0 → s.burst = some b →
      r.cancel = some .segmentEnd → (s.store.activeBank.descriptor p.write).count ≤ k + 1 →
      (∀ d ds code, p.tail = d :: ds →
        code = levelCode v (Memory.read s.store.activeBank.samples
          (s.store.activeBank.descriptor d).first).toNat →
        exec (.profileStepEnd lo hi) s = .next
          { s with
            pins := { s.pins with monlo := lo, monhi := hi },
            plans := s.plans.update r.tag (fun x =>
              { x with state := .tail, cancel := some .segmentEnd }),
            burst := some { b.reading s.now lo hi with sampling := false },
            seq := { s.seq with
              wfault := s.seq.wfault || s.pins.wgate, firstStep := false, overrun := none,
              laser := .on r.head code,
              position := some { phase := .tail, segment := 0, sample := some 0 } },
            drive := { s.drive with sent := s.drive.sent ++ DriveSent s r.head code } })
      ∧ (∀ u report, p.tail = [] →
        u = { s with pins := { s.pins with monlo := lo, monhi := hi },
                     seq := { s.seq with wfault := s.seq.wfault || s.pins.wgate },
                     burst := some (b.reading s.now lo hi) } →
        report = u.burst.map (fun b => b.report s.config.deviationThreshold) →
        EndsPlan (.profileStepEnd lo hi) s u r .cancelled none report none))
    ∧ (∀ d report, r.state = .tail → pos.phase = .tail → p.tail[pos.segment]? = some d →
      (s.store.activeBank.descriptor d).count ≤ k + 1 → p.tail.length = pos.segment + 1 →
      report = s.burst.map (fun b => b.report s.config.deviationThreshold) →
      ∀ u, u = { s with pins := { s.pins with monlo := lo, monhi := hi } } →
        (∀ stamp, s.seq.overrun = some stamp →
          EndsPlan (.profileStepEnd lo hi) s u r .overrun (some stamp) report none)
        ∧ (s.seq.overrun = none → r.cancel = some .segmentEnd →
            EndsPlan (.profileStepEnd lo hi) s u r .cancelled none report none)
        ∧ (s.seq.overrun = none → r.cancel ≠ some .segmentEnd →
            EndsPlan (.profileStepEnd lo hi) s u r .done none report none))

/-- The end of a calibration step at its time: the bit tried is kept where MONHI is low and the candidate is
within 1023, a MONLO counts, and the next trial code goes out (R80, R121, R122); the end of step 20 ends the
plan DONE with the codes found in a VALID head record, or CAL_FAIL with the head SUSPECT and its other QUEUED
and GRANTED WRITE records finished HEAD_SUSPECT (R81, R86, R123, R124). Model's choices: logs 8, 14, 33; log 30
for the stamps of a step end taken after its time. -/
def Obligations.CalibrationStepSearches : Prop :=
  ∀ (s : State) (r : Record) (x : Search) (lo hi : Bool), Executing s r → r.state = .calibrating →
    s.search = some x → SearchSound x → s.burst = none →
    timeBefore s.now (timePlus r.windowStart (x.step * (s.config.calLength / 20))) = false →
    (∀ thr code, 1 ≤ x.step → x.step ≤ 9 →
      thr = (if hi then x.threshold else x.threshold + 2 ^ (10 - x.step)) →
      code = thr + 2 ^ (9 - x.step) →
      exec (.calibrationStepEnd lo hi) s = .next
        { s with
          pins := { s.pins with monlo := lo, monhi := hi },
          search := some { x with step := x.step + 1, threshold := thr,
                                  monlo := x.monlo + (if lo then 1 else 0) },
          seq := { s.seq with laser := .on r.head code },
          drive := { s.drive with sent := s.drive.sent ++ DriveSent s r.head code } })
    ∧ (∀ thr code, x.step = 10 → x.offset = 0 →
      thr = (if hi then x.threshold else x.threshold + 1) →
      code = (if thr + 512 ≤ 1023 then thr + 512 else thr) →
      exec (.calibrationStepEnd lo hi) s = .next
        { s with
          pins := { s.pins with monlo := lo, monhi := hi },
          search := some { x with step := 11, threshold := thr,
                                  monlo := x.monlo + (if lo then 1 else 0) },
          seq := { s.seq with laser := .on r.head code },
          drive := { sent := s.drive.sent ++ PairSent s 0 s.config.writeReference
                       ++ DriveSent s r.head code,
                     references := some (0, s.config.writeReference) } })
    ∧ (∀ off code, 11 ≤ x.step → x.step ≤ 19 →
      off = (if hi = false ∧ x.threshold + x.offset + 2 ^ (20 - x.step) ≤ 1023
        then x.offset + 2 ^ (20 - x.step) else x.offset) →
      code = (if x.threshold + off + 2 ^ (19 - x.step) ≤ 1023 then x.threshold + off + 2 ^ (19 - x.step)
        else x.threshold + off) →
      exec (.calibrationStepEnd lo hi) s = .next
        { s with
          pins := { s.pins with monlo := lo, monhi := hi },
          search := some { x with step := x.step + 1, offset := off,
                                  monlo := x.monlo + (if lo then 1 else 0) },
          seq := { s.seq with laser := .on r.head code },
          drive := { s.drive with sent := s.drive.sent ++ DriveSent s r.head code } })
    ∧ (∀ off count w, x.step = 20 →
      off = (if hi = false ∧ x.threshold + x.offset + 1 ≤ 1023 then x.offset + 1 else x.offset) →
      count = x.monlo + (if lo then 1 else 0) → w = x.threshold + off →
      (count = 0 → x.threshold ≠ 0 → w ≠ 1023 →
        ∃ t u, exec (.calibrationStepEnd lo hi) s = .next t
          ∧ PlanEnded { s with pins := { s.pins with monlo := lo, monhi := hi } } r .done none none
              (some { threshold := x.threshold, write := w + 1, cause := .none, monlo := 0 }) u
          ∧ t = { u with
              heads := s.heads.set r.head
                { state := .valid, threshold := x.threshold, write := w + 1, trim := 0, source := .cal,
                  stamp := some s.now } })
      ∧ (0 < count ∨ x.threshold = 0 ∨ w = 1023 →
        ∃ u, exec (.calibrationStepEnd lo hi) s = .next (u.markSuspect r.head)
          ∧ PlanEnded { s with pins := { s.pins with monlo := lo, monhi := hi } } r .calFail none none
              (some { threshold := x.threshold, write := if w = 1023 then 1023 else w + 1,
                      cause := if 0 < count ∨ x.threshold = 0 then .monitor else .writeLimit,
                      monlo := count }) u
          ∧ ∀ h, QueueSound s → s.heads[r.head]? = some h → s.store.standbyBank.state ≠ .swapPending →
            u.markSuspect r.head = GroupEnded
              { u with heads := s.heads.set r.head { h with state := .suspect } } .headSuspect
              (Siblings r.head)))

/-! ### The Share Link -/

/-- A frame starts once the station's wait has ended: the first entry of the queue that is not held back moves
to its head with the content fixed now, a CLAIM's record CLAIMING, a batch cut into frames of at most three
claims in listing order, window start by window start and claim number by claim number (R15, R32); where every
entry is held, the wait is short, or the station state sends nothing, nothing starts (R45, R132, R133, R141,
R152). Model's choices: logs 10, 27. -/
def Obligations.FrameStartTakesFirstEligibleEntry : Prop :=
  ∀ (s : State) (idle : Nat),
    (∀ pre e post, WaitEnded s idle → s.station = .joining ∨ s.station = .active →
      s.link.queue = pre ++ e :: post → (∀ x ∈ pre, HeldBack s x) → ¬ HeldBack s e →
      (∀ n k ws we l, e = .claim n k ws we l →
        exec (.frameStart idle) s = .next
          { s with link := Sending s.link (e :: (pre ++ post)) (.claim s.now n k ws we l),
                   plans := { s.plans with records := s.plans.records.map (fun r =>
                     if r.state = .queued ∧ r.claim = n then { r with state := .claiming } else r) } })
      ∧ (∀ n x, e = .release n x →
        exec (.frameStart idle) s = .next
          { s with link := Sending s.link (e :: (pre ++ post)) (.release s.now n x) })
      ∧ (e = .beacon →
        exec (.frameStart idle) s = .next
          { s with
            link := Sending s.link (e :: (pre ++ post))
              (.beacon s.now (digest (Purged s.table s.now))
                (s.table.filter (fun c =>
                  decide (c.station = s.number ∧ 0 < timeDiff c.windowEnd s.now))).length s.peers.sync) })
      ∧ (e = .join →
        exec (.frameStart idle) s = .next
          { s with link := Sending s.link (e :: (pre ++ post)) (.join s.now Config.unitCode) })
      ∧ (e = .syncRequest →
        exec (.frameStart idle) s = .next
          { s with link := Sending s.link (e :: (pre ++ post)) .syncRequest })
      ∧ (e = .syncDone →
        exec (.frameStart idle) s = .next
          { s with
            link := Sending s.link (e :: (pre ++ post))
              (.syncDone s.now (digest (Purged s.table s.now))) })
      ∧ (∀ again, e = .announce none again → ∃ (claims : List Entry) (f : List Entry)
          (fs : List (List Entry)),
        claims.Perm (s.table.filter (fun c =>
          decide (c.station = s.number ∧ 0 < timeDiff c.windowEnd s.now)))
        ∧ ((∀ c ∈ claims, -262144 ≤ timeDiff c.windowStart s.now ∧ timeDiff c.windowStart s.now < 262144) →
            claims.Pairwise (fun a b => timeDiff a.windowStart b.windowStart < 0
              ∨ (a.windowStart = b.windowStart ∧ a.number ≤ b.number)))
        ∧ (f :: fs).flatten = claims ∧ f = claims.take 3 ∧ (fs = [] ↔ claims.length ≤ 3)
        ∧ (claims.length ≤ 9 → ∀ g ∈ fs, 1 ≤ g.length ∧ g.length ≤ 3)
        ∧ exec (.frameStart idle) s = .next
          { s with
            link := Sending s.link (.announce (some (f :: fs)) again :: (pre ++ post))
              (.announce (decide (claims.length ≤ 3)) f) })
      ∧ (∀ f fs again, e = .announce (some (f :: fs)) again →
        exec (.frameStart idle) s = .next
          { s with link := Sending s.link (e :: (pre ++ post)) (.announce (decide (fs = [])) f) }))
    ∧ (¬ WaitEnded s idle ∨ s.station = .setup ∨ s.station = .listen ∨ s.station = .halted
        ∨ (∀ x ∈ s.link.queue, HeldBack s x) →
      exec (.frameStart idle) s = .next s)

/-- The completion of a frame ends it on the line, and its loopback acts: a CLAIM is admitted with its Share
Table entry, denied, or a protocol error, and its record is GRANTED or finishes by the first row of Table 3-7
that holds: CANCELLED, FENCED, HEAD_SUSPECT, LATE, each with a RELEASE at the window start where the claim was
admitted, or DENIED with its hint; a RELEASE clears the release pending, the JOIN of a JOINING station and the
SYNC-REQUEST of a DESYNC one make it a requester, the SYNC-DONE ends its resynchronisation; a discarded
loopback does nothing (R21 to R25, R47, R133, R138, R141, R142, R153, R154, R156, R157).
Model's choices: logs 20, 28, 33. -/
def Obligations.TransmissionCompletesWithLoopback : Prop :=
  ∀ s : State, s.pins.rstn = true →
    (∀ f, s.link.onLine = some ⟨f, true⟩ →
      exec .transmissionCompletes s = .next { s with link := Sent s.link s.link.queue })
    ∧ (s.link.onLine = none → exec .transmissionCompletes s = .next s)
    ∧ (s.station = .joining ∨ s.station = .active → ∀ e rest, s.link.queue = e :: rest →
      (∀ stamp n k ws we level r, s.link.onLine = some ⟨.claim stamp n k ws we level, false⟩ →
        e = .claim n k ws we level → QueueSound s → TableSound s → n < 256 → level < 256 →
        r ∈ s.plans.records → r.state = .claiming → r.claim = n →
        (ClaimInLimits s.table s.number stamp n ws we level →
          Room s.table s.config.bTotal stamp ws we level →
          ∀ result : Option PlanOutcome,
          FirstOf
            [(r.cancel ≠ none, some PlanOutcome.cancelled),
             (r.kind = .write ∧ Fenced s.restrictions.fence r.zone, some .fenced),
             (r.kind = .write ∧ (s.headRecord r.head).state = .suspect, some .headSuspect),
             (timeBefore s.now r.windowStart = false, some .late),
             (True, none)] result →
          exec .transmissionCompletes s = .next
            { s with
              link := Sent s.link (match result with
                | none => rest
                | some _ => rest ++ [.release n r.windowStart]),
              plans := (match result with
                | none => s.plans.update r.tag (fun x => { x with state := .granted })
                | some o => { s.plans with
                    records := s.plans.records.map (fun x =>
                      if x.tag = r.tag then endedRecord x o s.now none none none true else x),
                    finished := s.plans.finished ++ [r.tag] }),
              table := Purged s.table stamp ++
                [{ station := s.number, number := n, windowStart := ws, windowEnd := we, level := level,
                   kind := k, origin := .admitted }] })
        ∧ (∀ o : PlanOutcome,
          FirstOf
            [(r.cancel ≠ none, PlanOutcome.cancelled),
             (r.kind = .write ∧ Fenced s.restrictions.fence r.zone, .fenced),
             (r.kind = .write ∧ (s.headRecord r.head).state = .suspect, .headSuspect),
             (True, .denied)] o →
          (ClaimInLimits s.table s.number stamp n ws we level →
            ¬ Room s.table s.config.bTotal stamp ws we level →
            exec .transmissionCompletes s = .next
              { s with
                link := Sent s.link rest, table := Purged s.table stamp,
                plans := { s.plans with
                  records := s.plans.records.map (fun x =>
                    if x.tag = r.tag then
                      { endedRecord x o s.now none none none false with
                        hint := if o = .denied then
                            hintFor (Purged s.table stamp) s.config.bTotal s.now ws we level
                          else none }
                    else x),
                  finished := s.plans.finished ++ [r.tag] } })
          ∧ (¬ ClaimInLimits s.table s.number stamp n ws we level →
            ∀ u : State, u = { s with
                link := Sent s.link rest, table := Purged s.table stamp,
                plans := { s.plans with
                  records := s.plans.records.map (fun x =>
                    if x.tag = r.tag then endedRecord x o s.now none none none false else x),
                  finished := s.plans.finished ++ [r.tag] } } →
            (s.peers.requester = true → exec .transmissionCompletes s = .next (GivenUp u))
            ∧ (s.peers.requester = false → exec .transmissionCompletes s = .next (Desynced u true)))))
      ∧ (∀ stamp n x, s.link.onLine = some ⟨.release stamp n x, false⟩ → e = .release n x → n ≤ 15 →
        timeDiff x (timePlus stamp 8192) ≤ 0 →
        exec .transmissionCompletes s = .next
          { s with
            link := Sent s.link rest, table := Released (Purged s.table stamp) s.number n x,
            plans := { s.plans with records := s.plans.records.map (fun r =>
              if r.releasePending = true ∧ r.claim = n then { r with releasePending := false }
              else r) } })
      ∧ (∀ stamp d c y, s.link.onLine = some ⟨.beacon stamp d c y, false⟩ → e = .beacon →
        exec .transmissionCompletes s = .next
          { s with link := Sent s.link rest, table := Purged s.table stamp })
      ∧ (∀ stamp u, s.link.onLine = some ⟨.join stamp u, false⟩ → e = .join → s.station = .joining →
        ∃ awaited : List Station,
          (∀ n, n ∈ awaited ↔ (s.peers.entry n).state = .active)
          ∧ exec .transmissionCompletes s = .next
            { s with
              table := [],
              link := Sent s.link
                (if awaited = [] ∧ TxEntry.syncDone ∉ rest then rest ++ [.syncDone] else rest),
              peers := { s.peers with
                joinSent := true, sync := .resyncing, requester := true, awaited := awaited,
                requesterPulses := 0, reRequest := false,
                table := s.peers.table.map (fun p => { p with announced := false }) } })
      ∧ (s.link.onLine = some ⟨.syncRequest, false⟩ → e = .syncRequest → s.station = .active →
        s.peers.sync = .desync →
        ∃ awaited : List Station,
          (∀ n, n ∈ awaited ↔ (s.peers.entry n).state = .active)
          ∧ exec .transmissionCompletes s = .next
            { s with
              table := s.table.filter (fun c => decide (c.station = s.number)),
              link := Sent s.link
                (if awaited = [] ∧ TxEntry.syncDone ∉ rest then rest ++ [.syncDone] else rest),
              peers := { s.peers with
                sync := .resyncing, requester := true, awaited := awaited, requesterPulses := 0,
                reRequest := false,
                table := s.peers.table.map (fun p => { p with announced := false }) } })
      ∧ (∀ stamp d, s.link.onLine = some ⟨.syncDone stamp d, false⟩ → e = .syncDone →
        s.peers.requester = true →
        exec .transmissionCompletes s = .next
          { s with link := Sent s.link rest, table := Purged s.table stamp, station := .active,
                   peers := { s.peers with sync := .inSync, requester := false, awaited := [] } })
      ∧ (∀ final es f fs again, s.link.onLine = some ⟨.announce final es, false⟩ →
        e = .announce (some (f :: fs)) again →
        exec .transmissionCompletes s = .next
          { s with
            link := Sent s.link
              (if fs ≠ [] then .announce (some fs) again :: rest
              else if again then .announce none false :: rest else rest) }))

/-- A collision stops the frame, its entry staying at the head of the queue and the count one higher, a CLAIM's
record QUEUED again, finished by the first that holds of a pending cancel, a fenced zone and a SUSPECT head;
the fourth in a row halts the station with LINK_FAULT at the frame's stamp, for an unstamped kind at the
station's time; a frame whose loopback is discarded is dropped (R45, R85, R134, R135, R142, R175). In a bit
time of its own frame the station queues the collision where the line reads otherwise than it drives, at a stop
bit with the frame error of the framing fault (R137), and the completion at the last bit (R133, R134). Model's
choices: logs 11, 31, 33, 38. -/
def Obligations.CollisionCountsAndHalts : Prop :=
  ∀ s : State, s.pins.rstn = true →
    (∀ f, s.link.onLine = some ⟨f, true⟩ →
      exec .collision s = .next { s with link :=
        { s.link with onLine := none, receiver := .receiving, postSend := true, idleCount := 0 } })
    ∧ (s.link.onLine = none → exec .collision s = .next s)
    ∧ (∀ f e rest, s.link.onLine = some ⟨f, false⟩ → s.link.queue = e :: rest →
      s.link.collisions < 3 →
      ((∀ stamp n k ws we level, f ≠ .claim stamp n k ws we level) →
        exec .collision s = .next { s with link := Collided s.link e })
      ∧ (∀ stamp n k ws we level r, f = .claim stamp n k ws we level → e = .claim n k ws we level →
        QueueSound s → r ∈ s.plans.records → r.state = .claiming → r.claim = n →
        ∀ result : Option PlanOutcome,
          FirstOf
            [(r.cancel ≠ none, some PlanOutcome.cancelled),
             (r.kind = .write ∧ Fenced s.restrictions.fence r.zone, some .fenced),
             (r.kind = .write ∧ (s.headRecord r.head).state = .suspect, some .headSuspect),
             (True, none)] result →
          (result = none →
            exec .collision s = .next
              { s with link := Collided s.link e,
                       plans := s.plans.update r.tag (fun x => { x with state := .queued }) })
          ∧ (∀ o, result = some o →
            exec .collision s = .next
              { s with link := Unsent (Collided s.link e) (.claim n),
                       plans := { s.plans with
                         records := s.plans.records.map (fun x =>
                           if x.tag = r.tag then endedRecord x o s.now none none none false
                           else x),
                         finished := s.plans.finished ++ [r.tag] } })))
    ∧ (∀ f e rest, s.link.onLine = some ⟨f, false⟩ → s.link.queue = e :: rest →
      s.link.collisions = 3 →
      (∀ stamp, (∀ t n k ws we level, f ≠ .claim t n k ws we level) →
        (match f with
          | .join t _ | .beacon t _ _ _ | .claim t _ _ _ _ _ | .release t _ _ | .syncDone t _ => stamp = t
          | .syncRequest | .announce _ _ => stamp = s.now) →
        ∃ t, exec .collision s = .next t ∧ OffSent s t
          ∧ t = { s with
              station := .halted, link := Collided s.link e,
              seq := { s.seq with laser := .off, wfault := s.seq.wfault || s.pins.wgate },
              fault := FaultWritten s.fault .linkFault stamp, drive := t.drive, free := t.free })
      ∧ (∀ stamp n k ws we level r, f = .claim stamp n k ws we level → QueueSound s →
        r ∈ s.plans.records → r.state = .claiming → r.claim = n →
        ∃ t, exec .collision s = .next t ∧ OffSent s t
          ∧ t = { s with
              station := .halted, link := Collided s.link e,
              plans := s.plans.update r.tag (fun x => { x with state := .queued }),
              seq := { s.seq with laser := .off, wfault := s.seq.wfault || s.pins.wgate },
              fault := FaultWritten s.fault .linkFault stamp, drive := t.drive, free := t.free }))
    ∧ (∀ (o : OnLine) (level pulse : Bool), s.link.onLine = some o →
      s.station = .listen ∨ s.station = .joining ∨ s.station = .active →
      (level ≠ s.driven → s.link.bit < s.frameBits.length →
        (s.lineBit level pulse).pending = s.pending ++
          (if s.link.bit % 10 = 9 then [.collision, .linkFrameError false] else [.collision]))
      ∧ (level = s.driven → s.link.bit + 1 < s.frameBits.length →
        s.lineBit level pulse = { s with link := { s.link with bit := s.link.bit + 1, lineHigh := level } })
      ∧ (level = s.driven → s.link.bit + 1 = s.frameBits.length →
        s.lineBit level pulse =
          { s with link := { s.link with bit := s.link.bit + 1, lineHigh := level },
                   pending := s.pending ++ [.transmissionCompletes] }))

/-- The bytes of a frame that passes every check of R136 are the command of its kind (Table 11-3); a byte that
fails a check is a frame error, and so is a frame that stops short once the line has been idle for more than 20
bit times (R137). A receiver that samples the ten bit times of a byte from an idle line takes that byte, with a
framing fault where the stop bit samples low, and a run of bit times in order; idle time then counts from that
stop bit where the byte ends a frame, else from the last low level (R128); the byte joins the frame being
received, and where it decides the frame the command joins the queue. A frame error puts the receiver in
discarding and is a trigger: a requester gives its resynchronisation up, an IN_SYNC station goes to DESYNC. The
post-send condition stays only where the error lies in the rest of a collided frame with nothing of another unit;
while the receiver waits or discards, a level of another unit clears it and ends the idle count (R132). More than
20 idle bit times end the discarding and the wait of LISTEN (R128, R137, R153, R157). Model's choices: log 10 (the
idle count), log 31, log 38 (which byte ends a frame). -/
def Obligations.FrameErrorDiscardsUntilIdle : Prop :=
  (∀ s : State, s.pins.rstn = true →
    s.station = .listen ∨ s.station = .joining ∨ s.station = .active →
    (∀ (foreignLow : Bool) (u : State), s.link.onLine = none →
      s.link.receiver = .idle ∨ s.link.receiver = .receiving →
      u = { s with link := { s.link with
              receiver := .discarding, assembly := [],
              postSend := s.link.postSend && decide (s.link.receiver = .receiving) && !foreignLow } } →
      (s.peers.requester = false → exec (.linkFrameError foreignLow) s = .next (Desynced u true))
      ∧ (s.peers.requester = true → exec (.linkFrameError foreignLow) s = .next (GivenUp u)))
    ∧ (s.link.receiver = .waitingIdle ∨ s.link.receiver = .discarding →
      exec (.linkFrameError false) s = .next s
      ∧ (s.link.onLine = none → exec (.linkFrameError true) s = .next
          { s with link := { s.link with postSend := false, idleCount := 0 } })
      ∧ exec .idleForMoreThan20BitTimes s = .next
        { s with link := { s.link with receiver := .idle, idleCount := max s.link.idleCount 21 } }))
  ∧ (∀ (bs : List RxByte) (n : Station) (idle : Nat) (pulse : Bool) (stamp : Time),
      (∀ unit : BitVec 32, FrameReceived bs n 0x01 (timeBytes stamp ++ byte4 unit.toNat ++ [1#8]) →
        lineCommand bs idle pulse = some (.join n stamp unit pulse))
      ∧ (∀ (d : BitVec 16) (claims sync : Byte),
        FrameReceived bs n 0x02 (timeBytes stamp ++ byte2 d.toNat ++ [claims, sync]) →
        lineCommand bs idle pulse = some (.beacon n stamp d claims sync pulse))
      ∧ (∀ (number kind level : Byte) (ws we : Time),
        FrameReceived bs n 0x03
          (timeBytes stamp ++ [number, kind] ++ timeBytes ws ++ timeBytes we ++ [level]) →
        lineCommand bs idle pulse = some (.claim n stamp number kind ws we level pulse))
      ∧ (∀ (number : Byte) (x : Time),
        FrameReceived bs n 0x04 (timeBytes stamp ++ [number] ++ timeBytes x) →
        lineCommand bs idle pulse = some (.release n stamp number x pulse))
      ∧ (FrameReceived bs n 0x05 [] → lineCommand bs idle pulse = some (.syncRequest n))
      ∧ (∀ (final : Byte) (es : List AnnounceEntry), es.length ≤ 3 →
        FrameReceived bs n 0x06 ([final] ++ es.flatMap (fun a =>
          [a.number, a.kind] ++ timeBytes a.windowStart ++ timeBytes a.windowEnd ++ [a.level])) →
        lineCommand bs idle pulse = some (.announce n final es))
      ∧ (∀ d : BitVec 16, FrameReceived bs n 0x07 (timeBytes stamp ++ byte2 d.toNat) →
        lineCommand bs idle pulse = some (.syncDone n stamp d pulse)))
  ∧ (∀ (bs : List RxByte) (idle : Nat) (pulse : Bool) (v : Nat → Nat),
      (∀ i, v i = ((bs.map RxByte.value).getD i 0).toNat) →
      (∃ b ∈ bs, b.fault = true) ∨ (∃ b ∈ bs.drop 1, 20 < b.gap)
        ∨ (1 ≤ bs.length ∧ v 0 ≠ 0x6A) ∨ (2 ≤ bs.length ∧ 7 < v 1)
        ∨ (3 ≤ bs.length ∧ (v 2 < 1 ∨ 7 < v 2))
        ∨ (4 ≤ bs.length ∧ ¬ ((v 2 = 1 ∧ v 3 = 8) ∨ (v 2 = 2 ∧ v 3 = 7) ∨ (v 2 = 3 ∧ v 3 = 12)
            ∨ (v 2 = 4 ∧ v 3 = 7) ∨ (v 2 = 5 ∧ v 3 = 0)
            ∨ (v 2 = 6 ∧ (v 3 = 1 ∨ v 3 = 10 ∨ v 3 = 19 ∨ v 3 = 28)) ∨ (v 2 = 7 ∧ v 3 = 5)))
        ∨ (12 ≤ bs.length ∧ v 2 = 1 ∧ v 11 ≠ 1)
        ∨ (v 3 + 5 ≤ bs.length
            ∧ ((List.range (v 3 + 4)).map (fun i => v (i + 1))).sum % 256 ≠ 0)
        ∨ (v 3 + 6 ≤ bs.length ∧ v (v 3 + 5) ≠ 0x95) →
      bs ≠ [] → bs.length ≤ v 3 + 6 → lineCommand bs idle pulse = some (.linkFrameError true))
  ∧ (∀ (full : List RxByte) (n : Station) (kind : Byte) (p : List Byte) (c : Instr) (m idle : Nat)
      (pulse : Bool), FrameReceived full n kind p → lineCommand full 0 pulse = some c →
      (∀ b, c ≠ .linkFrameError b) → 0 < m → m < full.length →
      lineCommand (full.take m) idle pulse = if 20 < idle then some (.linkFrameError true) else none)
  ∧ (∀ (s : State) (bs : List RxByte) (idle : Nat) (pulse : Bool),
      (lineCommand bs idle pulse = none → s.lineFrame bs idle pulse = s)
      ∧ ∀ c, lineCommand bs idle pulse = some c →
        s.lineFrame bs idle pulse = { s with pending := s.pending ++ [c] })
  ∧ (∀ (l : Link) (x : Byte) (stop : Bool) (bits : List Bool) (idle : Nat), l.byteBits = none →
      l.lineHigh = true →
      bits = [false, x.getLsbD 0, x.getLsbD 1, x.getLsbD 2, x.getLsbD 3, x.getLsbD 4, x.getLsbD 5,
          x.getLsbD 6, x.getLsbD 7, stop] →
      idle = (l.sampleAll bits).1.idleCount →
      l.sampleAll bits = ({ l with lineHigh := stop, idleCount := idle },
        [{ value := x, fault := !stop, gap := l.idleCount }])
      ∧ (EndsFrame l x → idle = 0)
      ∧ (¬ EndsFrame l x → ∀ j < 10, bits.getD j true = false →
          (∀ i, j < i → i < 10 → bits.getD i true = true) → idle = 9 - j))
  ∧ (∀ (l : Link) (p q : List Bool),
      l.sampleAll (p ++ q) = (((l.sampleAll p).1.sampleAll q).1,
        (l.sampleAll p).2 ++ ((l.sampleAll p).1.sampleAll q).2))
  ∧ (∀ (s : State) (level pulse : Bool) (gap : Nat) (x : Byte) (bs : List RxByte), s.pins.rstn = true →
      s.station = .listen ∨ s.station = .joining ∨ s.station = .active → s.link.onLine = none →
      s.link.receiver = .receiving →
      s.link.byteBits = some (gap, [x.getLsbD 0, x.getLsbD 1, x.getLsbD 2, x.getLsbD 3, x.getLsbD 4,
        x.getLsbD 5, x.getLsbD 6, x.getLsbD 7]) →
      bs = s.link.assembly ++ [{ value := x, fault := !level, gap := gap }] →
      (lineCommand bs 0 pulse = none →
        (s.lineBit level pulse).pending = s.pending ∧ (s.lineBit level pulse).link.assembly = bs)
      ∧ (∀ c, lineCommand bs 0 pulse = some c → (∀ b, c ≠ .linkFrameError b) →
        (s.lineBit level pulse).pending = s.pending ++ [c]
        ∧ (s.lineBit level pulse).link.assembly = [])
      ∧ (lineCommand bs 0 pulse = some (.linkFrameError true) →
        (s.lineBit level pulse).pending
          = s.pending ++ [.linkFrameError (!(s.link.postSend && level))]
        ∧ (s.lineBit level pulse).link.assembly = []))

/-- A frame that bears the station's own number halts it in LISTEN and JOINING with ID_CLASH, and in ACTIVE
writes CLASH_SEEN and does nothing else; the stamp is the frame's, or for an unstamped kind the
receiver's time (R149, R160, R170, R175). Model's choices: logs 9, 11. -/
def Obligations.OwnNumberFrameIsAClash : Prop :=
  ∀ s : State, s.pins.rstn = true → s.link.onLine = none →
    s.link.receiver = .idle ∨ s.link.receiver = .receiving →
    ∀ (c : Instr) (stamp : Time),
      ((∃ n k ws we l p, c = .claim s.number stamp n k ws we l p)
        ∨ (∃ u p, c = .join s.number stamp u p) ∨ (∃ d m y p, c = .beacon s.number stamp d m y p)
        ∨ (∃ n x p, c = .release s.number stamp n x p) ∨ (∃ d p, c = .syncDone s.number stamp d p)
        ∨ (c = .syncRequest s.number ∧ stamp = s.now)
        ∨ (∃ f es, c = .announce s.number f es ∧ stamp = s.now)) →
      (s.station = .listen ∨ s.station = .joining →
        ∃ t, exec c s = .next t ∧ OffSent s t
          ∧ t = { s with
              station := .halted, link := FrameEnded s.link,
              seq := { s.seq with laser := .off, wfault := s.seq.wfault || s.pins.wgate },
              fault := FaultWritten s.fault .idClash stamp, drive := t.drive, free := t.free })
      ∧ (s.station = .active →
        exec c s = .next { s with link := FrameEnded s.link,
                                  fault := FaultWritten s.fault .clashSeen stamp })

/-- A CLAIM from a peer within the limits is admitted where the purged table has room, and leaves the purged
table where it has not; outside them it is a protocol error. A RELEASE from a peer purges the table and shortens
or removes the sender's entry; with a claim number above 15, or a release stamp after its stamp + 8192, it is a
protocol error and only purges. A protocol error is a trigger, and a requester gives its resynchronisation up at
it (R157); a sender that was ABSENT or LOST is a trigger too. The sender is ACTIVE with its count 0 (R20 to R24,
R144, R153). Model's choices: logs 9, 20, 33. -/
def Obligations.PeerClaimAndReleaseChangeTheTable : Prop :=
  ∀ (s : State) (n : Station) (stamp : Time) (number : Byte) (pulse : Bool), TakingFrames s →
    n ≠ s.number → AdoptionClosed s → TableSound s →
    (∀ (kind level : Byte) (ws we : Time),
      (ClaimInLimits s.table n stamp number.toNat ws we level.toNat → kind = 0 ∨ kind = 1 →
        (Room s.table s.config.bTotal stamp ws we level.toNat →
          exec (.claim n stamp number kind ws we level pulse) s = .next
            (FrameFrom s n (Purged s.table stamp ++
              [{ station := n, number := number.toNat, windowStart := ws, windowEnd := we,
                 level := level.toNat, kind := if kind = 0 then .write else .cal,
                 origin := .admitted }]) false))
        ∧ (¬ Room s.table s.config.bTotal stamp ws we level.toNat →
          exec (.claim n stamp number kind ws we level pulse) s = .next (FrameFrom s n (Purged s.table stamp) false)))
      ∧ (¬(ClaimInLimits s.table n stamp number.toNat ws we level.toNat ∧ (kind = 0 ∨ kind = 1)) →
        exec (.claim n stamp number kind ws we level pulse) s = .next (FrameFrom s n (Purged s.table stamp) true)))
    ∧ (∀ x, (number.toNat ≤ 15 → timeDiff x (timePlus stamp 8192) ≤ 0 →
        exec (.release n stamp number x pulse) s = .next
          (FrameFrom s n (Released (Purged s.table stamp) n number.toNat x) false))
      ∧ (15 < number.toNat ∨ 0 < timeDiff x (timePlus stamp 8192) →
        exec (.release n stamp number x pulse) s = .next (FrameFrom s n (Purged s.table stamp) true)))

/-- A JOIN from a peer removes its claims and makes its entry JOINING with its unit code; a SYNC-REQUEST
makes it ACTIVE; either has an ACTIVE station queue its batch and keep QUIET for that peer; an awaited
peer that joins is no longer awaited (R26, R141, R144, R151, R158). Model's choices: logs 9, 18, 20. -/
def Obligations.HelpersAnnounceAndKeepQuiet : Prop :=
  ∀ (s : State) (n : Station), TakingFrames s → n ≠ s.number → AdoptionClosed s →
    s.peers.table.length = 8 →
    (∀ (stamp : Time) (unit : BitVec 32) (pulse : Bool) (joined : PeerEntry),
      joined = { state := .joining, lastHeard := 0, unit := some unit, digest := none,
                 announced := false } →
      (s.peers.requester = false → s.station = .active →
        exec (.join n stamp unit pulse) s = .next
          { s with
            table := (Purged s.table stamp).filter (fun e => decide (e.station ≠ n)),
            link := { FrameEnded s.link with queue := BatchRequested s.link.queue },
            peers := { WithEntry s.peers n joined with quiet := some n, quietPulses := 0 } })
      ∧ (s.peers.requester = false → s.station = .joining →
        exec (.join n stamp unit pulse) s = .next
          { s with table := (Purged s.table stamp).filter (fun e => decide (e.station ≠ n)),
                   link := FrameEnded s.link, peers := WithEntry s.peers n joined })
      ∧ (s.peers.requester = true →
        ∃ t, exec (.join n stamp unit pulse) s = .next t
          ∧ t = { s with table := (Purged s.table stamp).filter (fun e => decide (e.station ≠ n)),
                         link := t.link, peers := t.peers }
          ∧ t.peers.entry n = joined
          ∧ t.peers.awaited = s.peers.awaited.filter (fun m => decide (m ≠ n))))
    ∧ ((s.peers.entry n).state = .joining ∨ (s.peers.entry n).state = .active →
      (s.station = .active →
        exec (.syncRequest n) s = .next
          { s with
            link := { FrameEnded s.link with queue := BatchRequested s.link.queue },
            peers := { WithEntry s.peers n (Heard (s.peers.entry n)) with
                       quiet := some n, quietPulses := 0 } })
      ∧ (s.station = .joining →
        exec (.syncRequest n) s = .next
          { s with link := FrameEnded s.link,
                   peers := WithEntry s.peers n (Heard (s.peers.entry n)) }))

/-- A BEACON that reports IN_SYNC and disagrees with the receiver's purged table in digest or in the count of
the sender's claims, and a SYNC-DONE that disagrees in digest, take an IN_SYNC station to DESYNC with a
SYNC-REQUEST queued, as does any from a station not in the Peer Table; the sender is ACTIVE with its
digest; a SYNC-DONE of the helped station ends QUIET; in LISTEN after its first pulse a BEACON's stamp sets
the revolution (R20, R144, R147, R153, R159). Model's choices: logs 9, 20. -/
def Obligations.BeaconAndSyncDoneCompareTables : Prop :=
  ∀ (s : State) (n : Station) (stamp : Time) (d : BitVec 16) (pulse stranger : Bool),
    n ≠ s.number →
    (stranger = true ↔ (s.peers.entry n).state = .absent ∨ (s.peers.entry n).state = .lost) →
    (TakingFrames s → AdoptionClosed s →
      (∀ (claims sync : Byte) (disagrees : Bool),
        (disagrees = true ↔ sync = 1 ∧ (d ≠ digest (Purged s.table stamp)
          ∨ claims.toNat ≠ ((Purged s.table stamp).filter (fun e => decide (e.station = n))).length)) →
        ∃ u, u = Desynced { s with link := FrameEnded s.link, table := Purged s.table stamp }
            (disagrees || stranger)
          ∧ exec (.beacon n stamp d claims sync pulse) s = .next
            { u with peers := WithEntry u.peers n { Heard (s.peers.entry n) with digest := some d } })
      ∧ (∃ u, u = Desynced { s with link := FrameEnded s.link, table := Purged s.table stamp }
            (decide (d ≠ digest (Purged s.table stamp)) || stranger)
          ∧ exec (.syncDone n stamp d pulse) s = .next
            { u with peers :=
              { WithEntry u.peers n { Heard (s.peers.entry n) with digest := some d } with
                quiet := if s.peers.quiet = some n then none else s.peers.quiet } }))
    ∧ (∀ claims sync : Byte, s.pins.rstn = true → s.station = .listen → s.link.onLine = none →
      s.link.receiver = .idle ∨ s.link.receiver = .receiving → s.peers.sync = .none →
      1 ≤ s.peers.listenPulses → s.peers.adopted = false →
      ∃ t, exec (.beacon n stamp d claims sync pulse) s = .next t
        ∧ t = { s with
            link := FrameEnded s.link, clock := { s.clock with revolution := t.clock.revolution },
            peers := { WithEntry s.peers n { Heard (s.peers.entry n) with digest := some d } with
                       adopted := true } }
        ∧ t.clock.revolution.toNat =
            (stamp.toNat / 4096 + if pulse then 1 else 0) % 256)

/-- An ANNOUNCE at a requester is inserted entry by entry, its final frame completing the sender's
announcements, the SYNC-DONE queued when the last awaited one is complete; an entry that fails a test of
R34 makes it give up; elsewhere an entry that the table does not hold as announced is a trigger (R33, R34,
R153, R155, R157). Model's choices: log 9. -/
def Obligations.AnnounceIsInsertedOrCompared : Prop :=
  ∀ (s : State) (n : Station) (final : Byte) (entries : List AnnounceEntry), TakingFrames s →
    n ≠ s.number → s.peers.table.length = 8 →
    (s.peers.requester = true → (∀ e ∈ s.table, EntrySound e) →
      (∀ pre a post, entries = pre ++ a :: post →
        Insertable (s.table ++ pre.map (EntryOf n)) s.config.bTotal n a) →
      (final = 0 →
        exec (.announce n final entries) s = .next
          { s with table := s.table ++ entries.map (EntryOf n), link := FrameEnded s.link,
                   peers := WithEntry s.peers n (Heard (s.peers.entry n)) })
      ∧ (final ≠ 0 → ∀ collected : Bool,
        (collected = true ↔ ∀ m ∈ s.peers.awaited, m ≠ n → (s.peers.entry m).announced = true) →
        exec (.announce n final entries) s = .next
          { s with
            table := s.table ++ entries.map (EntryOf n),
            link := { FrameEnded s.link with queue :=
              if collected = true ∧ TxEntry.syncDone ∉ s.link.queue then s.link.queue ++ [.syncDone]
              else s.link.queue },
            peers := WithEntry s.peers n { Heard (s.peers.entry n) with announced := true } }))
    ∧ (s.peers.requester = true → (∀ e ∈ s.table, EntrySound e) →
      (∀ pre a post, entries = pre ++ a :: post →
        (∀ pre1 b post1, pre = pre1 ++ b :: post1 →
          Insertable (s.table ++ pre1.map (EntryOf n)) s.config.bTotal n b) →
        ¬ Insertable (s.table ++ pre.map (EntryOf n)) s.config.bTotal n a →
        ∃ u, u = GivenUp { s with link := FrameEnded s.link }
          ∧ exec (.announce n final entries) s = .next
            { u with peers := WithEntry u.peers n (Heard (u.peers.entry n)) }))
    ∧ (s.peers.requester = false →
      (s.peers.entry n).state = .joining ∨ (s.peers.entry n).state = .active →
      ∀ differs : Bool,
        (differs = true ↔ ∃ a ∈ entries, ∀ e, s.table.find? (fun e =>
            decide (e.station = n ∧ e.number = a.number.toNat)) = some e →
          ¬(e.windowStart = a.windowStart ∧ e.windowEnd = a.windowEnd ∧ e.level = a.level.toNat
            ∧ (e.kind = .write ∧ a.kind = 0 ∨ e.kind = .cal ∧ a.kind = 1))) →
        ∃ u, u = Desynced { s with link := FrameEnded s.link } differs
          ∧ exec (.announce n final entries) s = .next
            { u with peers := WithEntry u.peers n (Heard (s.peers.entry n)) })

/-! ### The laws every step keeps -/

/-- The clock keeps its law under every command (R1 to R3, R11). -/
def Obligations.ClockSoundInvariant : Prop :=
  ∀ s t : State, ClockSound s → step s = .next t → ClockSound t

/-- The Share Table keeps its law under every command: the load never exceeds B_total (R15, R17, R18, R22,
R34). That only a station in JOINING or ACTIVE is a requester is the Peer Block's law. -/
def Obligations.TableSoundInvariant : Prop :=
  ∀ s t : State, TableSound s → PeersSound s → step s = .next t → TableSound t

/-- Plan Queue and Burst Sequencer keep their laws together: windows of live records never overlap, one plan
executes at most, and the laser is on only for it (R38, R42, R43, R63, R64). -/
def Obligations.QueueAndSequencerInvariant : Prop :=
  ∀ s t : State, QueueSound s → SequencerSound s → step s = .next t → QueueSound t ∧ SequencerSound t

/-- The Profile Store and the Head Table keep their laws: bank stores of fixed size in canonical form, a load
record exactly while the standby bank is LOADING (R97, R98, R100); head records and the calibration search
in range (R114, R121, R122). -/
def Obligations.StoreAndHeadsInvariant : Prop :=
  (∀ s t : State, StoreSound s → step s = .next t → StoreSound t)
  ∧ (∀ s t : State, HeadsSound s → step s = .next t → HeadsSound t)

/-- The Peer Block keeps its law (R143 to R146, R150, R154). -/
def Obligations.PeersSoundInvariant : Prop :=
  ∀ s t : State, PeersSound s → step s = .next t → PeersSound t

/-- The Link Controller keeps its law and SETUP stays clean, together, under every step and through every bit
time of the line (R107, R128, R135, R136, R139, R142). -/
def Obligations.LinkAndSetupInvariant : Prop :=
  (∀ s t : State, LinkSound s → SetupClean s → step s = .next t → LinkSound t ∧ SetupClean t)
  ∧ (∀ (s : State) (level pulse : Bool), LinkSound s → SetupClean s →
      LinkSound (s.lineBit level pulse) ∧ SetupClean (s.lineBit level pulse))

/-- Every law holds at reset. Model's choices: logs 10, 17. -/
def Obligations.LawsHoldAtReset : Prop :=
  ClockSound State.reset ∧ TableSound State.reset ∧ QueueSound State.reset
  ∧ SequencerSound State.reset ∧ StoreSound State.reset ∧ HeadsSound State.reset
  ∧ PeersSound State.reset ∧ LinkSound State.reset ∧ SetupClean State.reset
end

