-- ==== Sys2Proof/Laws/State.lean ====
section
/-! SUPPORT. What each shared operation leaves unchanged: one frame lemma per operation, its conjuncts simp
lemmas, so that no later proof unfolds a record update. -/

set_option linter.unusedTactic false
set_option linter.unnecessarySeqFocus false
set_option linter.unreachableTactic false

namespace Sys2Proof.Machine

namespace State

variable (s : State)

@[simp] theorem updateRecord_frame (t : Tag) (f : Record → Record) :
    (s.updateRecord t f).pending = s.pending ∧ (s.updateRecord t f).free = s.free
    ∧ (s.updateRecord t f).pins = s.pins ∧ (s.updateRecord t f).clock = s.clock
    ∧ (s.updateRecord t f).table = s.table ∧ (s.updateRecord t f).seq = s.seq
    ∧ (s.updateRecord t f).drive = s.drive ∧ (s.updateRecord t f).burst = s.burst
    ∧ (s.updateRecord t f).store = s.store ∧ (s.updateRecord t f).heads = s.heads
    ∧ (s.updateRecord t f).search = s.search ∧ (s.updateRecord t f).link = s.link
    ∧ (s.updateRecord t f).peers = s.peers ∧ (s.updateRecord t f).station = s.station
    ∧ (s.updateRecord t f).number = s.number ∧ (s.updateRecord t f).config = s.config
    ∧ (s.updateRecord t f).restrictions = s.restrictions ∧ (s.updateRecord t f).fault = s.fault
    ∧ (s.updateRecord t f).reply = s.reply := by
  unfold State.updateRecord; (try dsimp only) <;> (repeat' split) <;> simp

@[simp] theorem finish_frame (r : Record) (e : Ending) :
    (s.finish r e).pending = s.pending ∧ (s.finish r e).free = s.free ∧ (s.finish r e).pins = s.pins
    ∧ (s.finish r e).clock = s.clock ∧ (s.finish r e).table = s.table ∧ (s.finish r e).seq = s.seq
    ∧ (s.finish r e).drive = s.drive ∧ (s.finish r e).burst = s.burst ∧ (s.finish r e).store = s.store
    ∧ (s.finish r e).heads = s.heads ∧ (s.finish r e).search = s.search ∧ (s.finish r e).peers = s.peers
    ∧ (s.finish r e).station = s.station ∧ (s.finish r e).number = s.number
    ∧ (s.finish r e).config = s.config ∧ (s.finish r e).restrictions = s.restrictions
    ∧ (s.finish r e).fault = s.fault ∧ (s.finish r e).reply = s.reply := by
  unfold State.finish; (try dsimp only) <;> (repeat' split) <;> simp

@[simp] theorem finishAll_frame (rs : List Record) (e : Record → Ending) :
    (s.finishAll rs e).pending = s.pending ∧ (s.finishAll rs e).free = s.free
    ∧ (s.finishAll rs e).pins = s.pins ∧ (s.finishAll rs e).clock = s.clock
    ∧ (s.finishAll rs e).table = s.table ∧ (s.finishAll rs e).seq = s.seq
    ∧ (s.finishAll rs e).drive = s.drive ∧ (s.finishAll rs e).burst = s.burst
    ∧ (s.finishAll rs e).store = s.store ∧ (s.finishAll rs e).heads = s.heads
    ∧ (s.finishAll rs e).search = s.search ∧ (s.finishAll rs e).peers = s.peers
    ∧ (s.finishAll rs e).station = s.station ∧ (s.finishAll rs e).number = s.number
    ∧ (s.finishAll rs e).config = s.config ∧ (s.finishAll rs e).restrictions = s.restrictions
    ∧ (s.finishAll rs e).fault = s.fault ∧ (s.finishAll rs e).reply = s.reply := by
  induction rs generalizing s with
  | nil => simp [finishAll]
  | cons r rs ih => simpa [finishAll, List.foldl_cons] using ih (s.finish r (e r))

@[simp] theorem setLaser_frame (l : Laser) :
    (s.setLaser l).pending = s.pending ∧ (s.setLaser l).pins = s.pins ∧ (s.setLaser l).clock = s.clock
    ∧ (s.setLaser l).table = s.table ∧ (s.setLaser l).plans = s.plans ∧ (s.setLaser l).burst = s.burst
    ∧ (s.setLaser l).store = s.store ∧ (s.setLaser l).heads = s.heads ∧ (s.setLaser l).search = s.search
    ∧ (s.setLaser l).link = s.link ∧ (s.setLaser l).peers = s.peers ∧ (s.setLaser l).station = s.station
    ∧ (s.setLaser l).number = s.number ∧ (s.setLaser l).config = s.config
    ∧ (s.setLaser l).restrictions = s.restrictions ∧ (s.setLaser l).fault = s.fault
    ∧ (s.setLaser l).reply = s.reply := by
  unfold State.setLaser; (try dsimp only) <;> (repeat' split) <;> simp

@[simp] theorem setReferences_frame (low high : Nat) :
    (s.setReferences low high).pending = s.pending ∧ (s.setReferences low high).free = s.free
    ∧ (s.setReferences low high).pins = s.pins ∧ (s.setReferences low high).clock = s.clock
    ∧ (s.setReferences low high).table = s.table ∧ (s.setReferences low high).plans = s.plans
    ∧ (s.setReferences low high).seq = s.seq ∧ (s.setReferences low high).burst = s.burst
    ∧ (s.setReferences low high).store = s.store ∧ (s.setReferences low high).heads = s.heads
    ∧ (s.setReferences low high).search = s.search ∧ (s.setReferences low high).link = s.link
    ∧ (s.setReferences low high).peers = s.peers ∧ (s.setReferences low high).station = s.station
    ∧ (s.setReferences low high).number = s.number ∧ (s.setReferences low high).config = s.config
    ∧ (s.setReferences low high).restrictions = s.restrictions
    ∧ (s.setReferences low high).fault = s.fault ∧ (s.setReferences low high).reply = s.reply := by
  unfold State.setReferences; (try dsimp only) <;> (repeat' split) <;> simp

@[simp] theorem answer_frame (k : Byte) (r : Result) (p : List Byte) :
    (s.answer k r p).pending = s.pending ∧ (s.answer k r p).free = s.free
    ∧ (s.answer k r p).pins = s.pins ∧ (s.answer k r p).clock = s.clock
    ∧ (s.answer k r p).table = s.table ∧ (s.answer k r p).plans = s.plans ∧ (s.answer k r p).seq = s.seq
    ∧ (s.answer k r p).drive = s.drive ∧ (s.answer k r p).burst = s.burst
    ∧ (s.answer k r p).store = s.store ∧ (s.answer k r p).heads = s.heads
    ∧ (s.answer k r p).search = s.search ∧ (s.answer k r p).link = s.link
    ∧ (s.answer k r p).peers = s.peers ∧ (s.answer k r p).station = s.station
    ∧ (s.answer k r p).number = s.number ∧ (s.answer k r p).config = s.config
    ∧ (s.answer k r p).restrictions = s.restrictions ∧ (s.answer k r p).fault = s.fault := by
  unfold State.answer; (try dsimp only) <;> (repeat' split) <;> simp

@[simp] theorem assertWfault_frame :
    (s.assertWfault).pending = s.pending ∧ (s.assertWfault).free = s.free
    ∧ (s.assertWfault).pins = s.pins ∧ (s.assertWfault).clock = s.clock
    ∧ (s.assertWfault).table = s.table ∧ (s.assertWfault).plans = s.plans
    ∧ (s.assertWfault).drive = s.drive ∧ (s.assertWfault).burst = s.burst
    ∧ (s.assertWfault).store = s.store ∧ (s.assertWfault).heads = s.heads
    ∧ (s.assertWfault).search = s.search ∧ (s.assertWfault).link = s.link
    ∧ (s.assertWfault).peers = s.peers ∧ (s.assertWfault).station = s.station
    ∧ (s.assertWfault).number = s.number ∧ (s.assertWfault).config = s.config
    ∧ (s.assertWfault).restrictions = s.restrictions ∧ (s.assertWfault).fault = s.fault
    ∧ (s.assertWfault).reply = s.reply := by
  unfold State.assertWfault; (try dsimp only) <;> (repeat' split) <;> simp

@[simp] theorem releaseWfault_frame :
    (s.releaseWfault).pending = s.pending ∧ (s.releaseWfault).free = s.free
    ∧ (s.releaseWfault).pins = s.pins ∧ (s.releaseWfault).clock = s.clock
    ∧ (s.releaseWfault).table = s.table ∧ (s.releaseWfault).plans = s.plans
    ∧ (s.releaseWfault).drive = s.drive ∧ (s.releaseWfault).burst = s.burst
    ∧ (s.releaseWfault).store = s.store ∧ (s.releaseWfault).heads = s.heads
    ∧ (s.releaseWfault).search = s.search ∧ (s.releaseWfault).link = s.link
    ∧ (s.releaseWfault).peers = s.peers ∧ (s.releaseWfault).station = s.station
    ∧ (s.releaseWfault).number = s.number ∧ (s.releaseWfault).config = s.config
    ∧ (s.releaseWfault).restrictions = s.restrictions ∧ (s.releaseWfault).fault = s.fault
    ∧ (s.releaseWfault).reply = s.reply := by
  unfold State.releaseWfault; (try dsimp only) <;> (repeat' split) <;> simp

@[simp] theorem writeFault_frame (c : FaultCause) (t : Time) :
    (s.writeFault c t).pending = s.pending ∧ (s.writeFault c t).free = s.free
    ∧ (s.writeFault c t).pins = s.pins ∧ (s.writeFault c t).clock = s.clock
    ∧ (s.writeFault c t).table = s.table ∧ (s.writeFault c t).plans = s.plans
    ∧ (s.writeFault c t).seq = s.seq ∧ (s.writeFault c t).drive = s.drive
    ∧ (s.writeFault c t).burst = s.burst ∧ (s.writeFault c t).store = s.store
    ∧ (s.writeFault c t).heads = s.heads ∧ (s.writeFault c t).search = s.search
    ∧ (s.writeFault c t).link = s.link ∧ (s.writeFault c t).peers = s.peers
    ∧ (s.writeFault c t).station = s.station ∧ (s.writeFault c t).number = s.number
    ∧ (s.writeFault c t).config = s.config ∧ (s.writeFault c t).restrictions = s.restrictions
    ∧ (s.writeFault c t).reply = s.reply := by
  unfold State.writeFault; (try dsimp only) <;> (repeat' split) <;> simp

@[simp] theorem setHeadRecord_frame (h : Nat) (r : HeadRecord) :
    (s.setHeadRecord h r).pending = s.pending ∧ (s.setHeadRecord h r).free = s.free
    ∧ (s.setHeadRecord h r).pins = s.pins ∧ (s.setHeadRecord h r).clock = s.clock
    ∧ (s.setHeadRecord h r).table = s.table ∧ (s.setHeadRecord h r).plans = s.plans
    ∧ (s.setHeadRecord h r).seq = s.seq ∧ (s.setHeadRecord h r).drive = s.drive
    ∧ (s.setHeadRecord h r).burst = s.burst ∧ (s.setHeadRecord h r).store = s.store
    ∧ (s.setHeadRecord h r).search = s.search ∧ (s.setHeadRecord h r).link = s.link
    ∧ (s.setHeadRecord h r).peers = s.peers ∧ (s.setHeadRecord h r).station = s.station
    ∧ (s.setHeadRecord h r).number = s.number ∧ (s.setHeadRecord h r).config = s.config
    ∧ (s.setHeadRecord h r).restrictions = s.restrictions ∧ (s.setHeadRecord h r).fault = s.fault
    ∧ (s.setHeadRecord h r).reply = s.reply := by
  unfold State.setHeadRecord; (try dsimp only) <;> (repeat' split) <;> simp

@[simp] theorem resolvePendingSwap_frame :
    (s.resolvePendingSwap).pending = s.pending ∧ (s.resolvePendingSwap).free = s.free
    ∧ (s.resolvePendingSwap).pins = s.pins ∧ (s.resolvePendingSwap).clock = s.clock
    ∧ (s.resolvePendingSwap).table = s.table ∧ (s.resolvePendingSwap).plans = s.plans
    ∧ (s.resolvePendingSwap).seq = s.seq ∧ (s.resolvePendingSwap).drive = s.drive
    ∧ (s.resolvePendingSwap).burst = s.burst ∧ (s.resolvePendingSwap).heads = s.heads
    ∧ (s.resolvePendingSwap).search = s.search ∧ (s.resolvePendingSwap).link = s.link
    ∧ (s.resolvePendingSwap).peers = s.peers ∧ (s.resolvePendingSwap).station = s.station
    ∧ (s.resolvePendingSwap).number = s.number ∧ (s.resolvePendingSwap).config = s.config
    ∧ (s.resolvePendingSwap).restrictions = s.restrictions ∧ (s.resolvePendingSwap).fault = s.fault
    ∧ (s.resolvePendingSwap).reply = s.reply := by
  unfold State.resolvePendingSwap; (try dsimp only) <;> (repeat' split) <;> simp

@[simp] theorem resolveDueSwap_frame :
    (s.resolveDueSwap).pending = s.pending ∧ (s.resolveDueSwap).free = s.free
    ∧ (s.resolveDueSwap).pins = s.pins ∧ (s.resolveDueSwap).clock = s.clock
    ∧ (s.resolveDueSwap).table = s.table ∧ (s.resolveDueSwap).plans = s.plans
    ∧ (s.resolveDueSwap).seq = s.seq ∧ (s.resolveDueSwap).drive = s.drive
    ∧ (s.resolveDueSwap).burst = s.burst ∧ (s.resolveDueSwap).heads = s.heads
    ∧ (s.resolveDueSwap).search = s.search ∧ (s.resolveDueSwap).link = s.link
    ∧ (s.resolveDueSwap).peers = s.peers ∧ (s.resolveDueSwap).station = s.station
    ∧ (s.resolveDueSwap).number = s.number ∧ (s.resolveDueSwap).config = s.config
    ∧ (s.resolveDueSwap).restrictions = s.restrictions ∧ (s.resolveDueSwap).fault = s.fault
    ∧ (s.resolveDueSwap).reply = s.reply := by
  unfold State.resolveDueSwap; (try dsimp only) <;> (repeat' split) <;> simp

@[simp] theorem swapBeforeEndings_frame :
    (s.swapBeforeEndings).pending = s.pending ∧ (s.swapBeforeEndings).pins = s.pins
    ∧ (s.swapBeforeEndings).clock = s.clock ∧ (s.swapBeforeEndings).table = s.table
    ∧ (s.swapBeforeEndings).plans = s.plans ∧ (s.swapBeforeEndings).seq = s.seq
    ∧ (s.swapBeforeEndings).drive = s.drive ∧ (s.swapBeforeEndings).burst = s.burst
    ∧ (s.swapBeforeEndings).heads = s.heads ∧ (s.swapBeforeEndings).search = s.search
    ∧ (s.swapBeforeEndings).link = s.link ∧ (s.swapBeforeEndings).peers = s.peers
    ∧ (s.swapBeforeEndings).station = s.station ∧ (s.swapBeforeEndings).number = s.number
    ∧ (s.swapBeforeEndings).config = s.config ∧ (s.swapBeforeEndings).restrictions = s.restrictions
    ∧ (s.swapBeforeEndings).fault = s.fault ∧ (s.swapBeforeEndings).reply = s.reply := by
  unfold State.swapBeforeEndings; (try dsimp only) <;> (repeat' split) <;> simp

@[simp] theorem markSuspect_frame (h : Nat) :
    (s.markSuspect h).pending = s.pending ∧ (s.markSuspect h).pins = s.pins
    ∧ (s.markSuspect h).clock = s.clock ∧ (s.markSuspect h).table = s.table
    ∧ (s.markSuspect h).seq = s.seq ∧ (s.markSuspect h).drive = s.drive
    ∧ (s.markSuspect h).burst = s.burst ∧ (s.markSuspect h).search = s.search
    ∧ (s.markSuspect h).peers = s.peers ∧ (s.markSuspect h).station = s.station
    ∧ (s.markSuspect h).number = s.number ∧ (s.markSuspect h).config = s.config
    ∧ (s.markSuspect h).restrictions = s.restrictions ∧ (s.markSuspect h).fault = s.fault
    ∧ (s.markSuspect h).reply = s.reply := by
  unfold State.markSuspect; (try dsimp only) <;> (repeat' split) <;> simp

@[simp] theorem monitorSample_frame (n : Nat) :
    (s.monitorSample n).pending = s.pending ∧ (s.monitorSample n).free = s.free
    ∧ (s.monitorSample n).pins = s.pins ∧ (s.monitorSample n).clock = s.clock
    ∧ (s.monitorSample n).table = s.table ∧ (s.monitorSample n).plans = s.plans
    ∧ (s.monitorSample n).seq = s.seq ∧ (s.monitorSample n).store = s.store
    ∧ (s.monitorSample n).heads = s.heads ∧ (s.monitorSample n).search = s.search
    ∧ (s.monitorSample n).link = s.link ∧ (s.monitorSample n).peers = s.peers
    ∧ (s.monitorSample n).station = s.station ∧ (s.monitorSample n).number = s.number
    ∧ (s.monitorSample n).config = s.config ∧ (s.monitorSample n).restrictions = s.restrictions
    ∧ (s.monitorSample n).fault = s.fault ∧ (s.monitorSample n).reply = s.reply := by
  unfold State.monitorSample; (try dsimp only) <;> (repeat' split) <;> simp

@[simp] theorem monitorStops_frame :
    (s.monitorStops).pending = s.pending ∧ (s.monitorStops).free = s.free
    ∧ (s.monitorStops).pins = s.pins ∧ (s.monitorStops).clock = s.clock
    ∧ (s.monitorStops).table = s.table ∧ (s.monitorStops).plans = s.plans ∧ (s.monitorStops).seq = s.seq
    ∧ (s.monitorStops).drive = s.drive ∧ (s.monitorStops).store = s.store
    ∧ (s.monitorStops).heads = s.heads ∧ (s.monitorStops).search = s.search
    ∧ (s.monitorStops).link = s.link ∧ (s.monitorStops).peers = s.peers
    ∧ (s.monitorStops).station = s.station ∧ (s.monitorStops).number = s.number
    ∧ (s.monitorStops).config = s.config ∧ (s.monitorStops).restrictions = s.restrictions
    ∧ (s.monitorStops).fault = s.fault ∧ (s.monitorStops).reply = s.reply := by
  unfold State.monitorStops; (try dsimp only) <;> (repeat' split) <;> simp

@[simp] theorem monitorReading_frame (lo hi : Bool) :
    (s.monitorReading lo hi).pending = s.pending ∧ (s.monitorReading lo hi).free = s.free
    ∧ (s.monitorReading lo hi).pins = s.pins ∧ (s.monitorReading lo hi).clock = s.clock
    ∧ (s.monitorReading lo hi).table = s.table ∧ (s.monitorReading lo hi).plans = s.plans
    ∧ (s.monitorReading lo hi).seq = s.seq ∧ (s.monitorReading lo hi).drive = s.drive
    ∧ (s.monitorReading lo hi).store = s.store ∧ (s.monitorReading lo hi).heads = s.heads
    ∧ (s.monitorReading lo hi).search = s.search ∧ (s.monitorReading lo hi).link = s.link
    ∧ (s.monitorReading lo hi).peers = s.peers ∧ (s.monitorReading lo hi).station = s.station
    ∧ (s.monitorReading lo hi).number = s.number ∧ (s.monitorReading lo hi).config = s.config
    ∧ (s.monitorReading lo hi).restrictions = s.restrictions ∧ (s.monitorReading lo hi).fault = s.fault
    ∧ (s.monitorReading lo hi).reply = s.reply := by
  unfold State.monitorReading; (try dsimp only) <;> (repeat' split) <;> simp

@[simp] theorem trimStep_frame (h : Nat) (r : Report) :
    (s.trimStep h r).pending = s.pending ∧ (s.trimStep h r).pins = s.pins
    ∧ (s.trimStep h r).clock = s.clock ∧ (s.trimStep h r).table = s.table ∧ (s.trimStep h r).seq = s.seq
    ∧ (s.trimStep h r).drive = s.drive ∧ (s.trimStep h r).burst = s.burst
    ∧ (s.trimStep h r).search = s.search ∧ (s.trimStep h r).peers = s.peers
    ∧ (s.trimStep h r).station = s.station ∧ (s.trimStep h r).number = s.number
    ∧ (s.trimStep h r).config = s.config ∧ (s.trimStep h r).restrictions = s.restrictions
    ∧ (s.trimStep h r).fault = s.fault ∧ (s.trimStep h r).reply = s.reply := by
  unfold State.trimStep; (try dsimp only) <;> (repeat' split) <;> simp

@[simp] theorem afterBurst_frame (h : Nat) (r : Option Report) :
    (s.afterBurst h r).pending = s.pending ∧ (s.afterBurst h r).pins = s.pins
    ∧ (s.afterBurst h r).clock = s.clock ∧ (s.afterBurst h r).table = s.table
    ∧ (s.afterBurst h r).seq = s.seq ∧ (s.afterBurst h r).drive = s.drive
    ∧ (s.afterBurst h r).burst = s.burst ∧ (s.afterBurst h r).search = s.search
    ∧ (s.afterBurst h r).peers = s.peers ∧ (s.afterBurst h r).station = s.station
    ∧ (s.afterBurst h r).number = s.number ∧ (s.afterBurst h r).config = s.config
    ∧ (s.afterBurst h r).restrictions = s.restrictions ∧ (s.afterBurst h r).fault = s.fault
    ∧ (s.afterBurst h r).reply = s.reply := by
  unfold State.afterBurst; (try dsimp only) <;> (repeat' split) <;> simp

@[simp] theorem emit_frame (r : Record) (n : Nat) :
    (s.emit r n).pending = s.pending ∧ (s.emit r n).pins = s.pins ∧ (s.emit r n).clock = s.clock
    ∧ (s.emit r n).table = s.table ∧ (s.emit r n).plans = s.plans ∧ (s.emit r n).burst = s.burst
    ∧ (s.emit r n).store = s.store ∧ (s.emit r n).heads = s.heads ∧ (s.emit r n).search = s.search
    ∧ (s.emit r n).link = s.link ∧ (s.emit r n).peers = s.peers ∧ (s.emit r n).station = s.station
    ∧ (s.emit r n).number = s.number ∧ (s.emit r n).config = s.config
    ∧ (s.emit r n).restrictions = s.restrictions ∧ (s.emit r n).fault = s.fault
    ∧ (s.emit r n).reply = s.reply := by
  unfold State.emit; (try dsimp only) <;> (repeat' split) <;> simp

@[simp] theorem playSample_frame (r : Record) (p : Profile) (ph : Phase) (g k : Nat) :
    (s.playSample r p ph g k).pending = s.pending ∧ (s.playSample r p ph g k).pins = s.pins
    ∧ (s.playSample r p ph g k).clock = s.clock ∧ (s.playSample r p ph g k).table = s.table
    ∧ (s.playSample r p ph g k).plans = s.plans ∧ (s.playSample r p ph g k).store = s.store
    ∧ (s.playSample r p ph g k).heads = s.heads ∧ (s.playSample r p ph g k).search = s.search
    ∧ (s.playSample r p ph g k).link = s.link ∧ (s.playSample r p ph g k).peers = s.peers
    ∧ (s.playSample r p ph g k).station = s.station ∧ (s.playSample r p ph g k).number = s.number
    ∧ (s.playSample r p ph g k).config = s.config
    ∧ (s.playSample r p ph g k).restrictions = s.restrictions
    ∧ (s.playSample r p ph g k).fault = s.fault ∧ (s.playSample r p ph g k).reply = s.reply := by
  unfold State.playSample; (try dsimp only) <;> (repeat' split) <;> simp

@[simp] theorem endPlan_frame (r : Record) (o : PlanOutcome) (f : Option Time) (c : Option CalResult) :
    (s.endPlan r o f c).pending = s.pending ∧ (s.endPlan r o f c).pins = s.pins
    ∧ (s.endPlan r o f c).clock = s.clock ∧ (s.endPlan r o f c).table = s.table
    ∧ (s.endPlan r o f c).peers = s.peers ∧ (s.endPlan r o f c).station = s.station
    ∧ (s.endPlan r o f c).number = s.number ∧ (s.endPlan r o f c).config = s.config
    ∧ (s.endPlan r o f c).restrictions = s.restrictions ∧ (s.endPlan r o f c).fault = s.fault
    ∧ (s.endPlan r o f c).reply = s.reply := by
  unfold State.endPlan; (try dsimp only) <;> (repeat' split) <;> simp

@[simp] theorem clash_frame (r : Record) :
    (s.clash r).pending = s.pending ∧ (s.clash r).pins = s.pins ∧ (s.clash r).clock = s.clock
    ∧ (s.clash r).table = s.table ∧ (s.clash r).peers = s.peers ∧ (s.clash r).station = s.station
    ∧ (s.clash r).number = s.number ∧ (s.clash r).config = s.config
    ∧ (s.clash r).restrictions = s.restrictions ∧ (s.clash r).fault = s.fault
    ∧ (s.clash r).reply = s.reply := by
  unfold State.clash; (try dsimp only) <;> (repeat' split) <;> simp

@[simp] theorem endTail_frame (r : Record) :
    (s.endTail r).pending = s.pending ∧ (s.endTail r).pins = s.pins ∧ (s.endTail r).clock = s.clock
    ∧ (s.endTail r).table = s.table ∧ (s.endTail r).peers = s.peers ∧ (s.endTail r).station = s.station
    ∧ (s.endTail r).number = s.number ∧ (s.endTail r).config = s.config
    ∧ (s.endTail r).restrictions = s.restrictions ∧ (s.endTail r).fault = s.fault
    ∧ (s.endTail r).reply = s.reply := by
  unfold State.endTail; (try dsimp only) <;> (repeat' split) <;> simp

@[simp] theorem enterTail_frame (r : Record) (p : Profile) (o : Option Time) :
    (s.enterTail r p o).pending = s.pending ∧ (s.enterTail r p o).pins = s.pins
    ∧ (s.enterTail r p o).clock = s.clock ∧ (s.enterTail r p o).table = s.table
    ∧ (s.enterTail r p o).peers = s.peers ∧ (s.enterTail r p o).station = s.station
    ∧ (s.enterTail r p o).number = s.number ∧ (s.enterTail r p o).config = s.config
    ∧ (s.enterTail r p o).restrictions = s.restrictions ∧ (s.enterTail r p o).fault = s.fault
    ∧ (s.enterTail r p o).reply = s.reply := by
  unfold State.enterTail; (try dsimp only) <;> (repeat' split) <;> simp

@[simp] theorem pause_frame (r : Record) (p : Profile) (m : PauseFrom) :
    (s.pause r p m).pending = s.pending ∧ (s.pause r p m).pins = s.pins
    ∧ (s.pause r p m).clock = s.clock ∧ (s.pause r p m).table = s.table
    ∧ (s.pause r p m).store = s.store ∧ (s.pause r p m).heads = s.heads
    ∧ (s.pause r p m).search = s.search ∧ (s.pause r p m).link = s.link
    ∧ (s.pause r p m).peers = s.peers ∧ (s.pause r p m).station = s.station
    ∧ (s.pause r p m).number = s.number ∧ (s.pause r p m).config = s.config
    ∧ (s.pause r p m).restrictions = s.restrictions ∧ (s.pause r p m).fault = s.fault
    ∧ (s.pause r p m).reply = s.reply := by
  unfold State.pause; (try dsimp only) <;> (repeat' split) <;> simp

@[simp] theorem enterReady_frame (r : Record) (p : Profile) :
    (s.enterReady r p).pending = s.pending ∧ (s.enterReady r p).pins = s.pins
    ∧ (s.enterReady r p).clock = s.clock ∧ (s.enterReady r p).table = s.table
    ∧ (s.enterReady r p).peers = s.peers ∧ (s.enterReady r p).station = s.station
    ∧ (s.enterReady r p).number = s.number ∧ (s.enterReady r p).config = s.config
    ∧ (s.enterReady r p).restrictions = s.restrictions ∧ (s.enterReady r p).fault = s.fault
    ∧ (s.enterReady r p).reply = s.reply := by
  unfold State.enterReady; (try dsimp only) <;> (repeat' split) <;> simp

@[simp] theorem advancePreheat_frame (r : Record) (p : Profile) (q : Position) :
    (s.advancePreheat r p q).pending = s.pending ∧ (s.advancePreheat r p q).pins = s.pins
    ∧ (s.advancePreheat r p q).clock = s.clock ∧ (s.advancePreheat r p q).table = s.table
    ∧ (s.advancePreheat r p q).peers = s.peers ∧ (s.advancePreheat r p q).station = s.station
    ∧ (s.advancePreheat r p q).number = s.number ∧ (s.advancePreheat r p q).config = s.config
    ∧ (s.advancePreheat r p q).restrictions = s.restrictions ∧ (s.advancePreheat r p q).fault = s.fault
    ∧ (s.advancePreheat r p q).reply = s.reply := by
  unfold State.advancePreheat; (try dsimp only) <;> (repeat' split) <;> simp

@[simp] theorem advanceWrite_frame (r : Record) (p : Profile) (q : Position) :
    (s.advanceWrite r p q).pending = s.pending ∧ (s.advanceWrite r p q).pins = s.pins
    ∧ (s.advanceWrite r p q).clock = s.clock ∧ (s.advanceWrite r p q).table = s.table
    ∧ (s.advanceWrite r p q).peers = s.peers ∧ (s.advanceWrite r p q).station = s.station
    ∧ (s.advanceWrite r p q).number = s.number ∧ (s.advanceWrite r p q).config = s.config
    ∧ (s.advanceWrite r p q).restrictions = s.restrictions ∧ (s.advanceWrite r p q).fault = s.fault
    ∧ (s.advanceWrite r p q).reply = s.reply := by
  unfold State.advanceWrite; (try dsimp only) <;> (repeat' split) <;> simp

@[simp] theorem advanceTail_frame (r : Record) (p : Profile) (q : Position) :
    (s.advanceTail r p q).pending = s.pending ∧ (s.advanceTail r p q).pins = s.pins
    ∧ (s.advanceTail r p q).clock = s.clock ∧ (s.advanceTail r p q).table = s.table
    ∧ (s.advanceTail r p q).peers = s.peers ∧ (s.advanceTail r p q).station = s.station
    ∧ (s.advanceTail r p q).number = s.number ∧ (s.advanceTail r p q).config = s.config
    ∧ (s.advanceTail r p q).restrictions = s.restrictions ∧ (s.advanceTail r p q).fault = s.fault
    ∧ (s.advanceTail r p q).reply = s.reply := by
  unfold State.advanceTail; (try dsimp only) <;> (repeat' split) <;> simp

@[simp] theorem endCalibration_frame (r : Record) (c : CalResult) :
    (s.endCalibration r c).pending = s.pending ∧ (s.endCalibration r c).pins = s.pins
    ∧ (s.endCalibration r c).clock = s.clock ∧ (s.endCalibration r c).table = s.table
    ∧ (s.endCalibration r c).peers = s.peers ∧ (s.endCalibration r c).station = s.station
    ∧ (s.endCalibration r c).number = s.number ∧ (s.endCalibration r c).config = s.config
    ∧ (s.endCalibration r c).restrictions = s.restrictions ∧ (s.endCalibration r c).fault = s.fault
    ∧ (s.endCalibration r c).reply = s.reply := by
  unfold State.endCalibration; (try dsimp only) <;> (repeat' split) <;> simp

@[simp] theorem calibrationStep_frame (r : Record) (x : Search) (lo hi : Bool) :
    (s.calibrationStep r x lo hi).pending = s.pending ∧ (s.calibrationStep r x lo hi).pins = s.pins
    ∧ (s.calibrationStep r x lo hi).clock = s.clock ∧ (s.calibrationStep r x lo hi).table = s.table
    ∧ (s.calibrationStep r x lo hi).peers = s.peers ∧ (s.calibrationStep r x lo hi).station = s.station
    ∧ (s.calibrationStep r x lo hi).number = s.number ∧ (s.calibrationStep r x lo hi).config = s.config
    ∧ (s.calibrationStep r x lo hi).restrictions = s.restrictions
    ∧ (s.calibrationStep r x lo hi).fault = s.fault ∧ (s.calibrationStep r x lo hi).reply = s.reply := by
  unfold State.calibrationStep; (try dsimp only) <;> (repeat' split) <;> simp

@[simp] theorem startFrame_frame (e : TxEntry) :
    (s.startFrame e).pending = s.pending ∧ (s.startFrame e).free = s.free
    ∧ (s.startFrame e).pins = s.pins ∧ (s.startFrame e).clock = s.clock
    ∧ (s.startFrame e).table = s.table ∧ (s.startFrame e).seq = s.seq ∧ (s.startFrame e).drive = s.drive
    ∧ (s.startFrame e).burst = s.burst ∧ (s.startFrame e).store = s.store
    ∧ (s.startFrame e).heads = s.heads ∧ (s.startFrame e).search = s.search
    ∧ (s.startFrame e).peers = s.peers ∧ (s.startFrame e).station = s.station
    ∧ (s.startFrame e).number = s.number ∧ (s.startFrame e).config = s.config
    ∧ (s.startFrame e).restrictions = s.restrictions ∧ (s.startFrame e).fault = s.fault
    ∧ (s.startFrame e).reply = s.reply := by
  unfold State.startFrame; (try dsimp only) <;> (repeat' split) <;> simp

@[simp] theorem claimVerdict_frame (r : Record) (v : Verdict) (h : Option Time) :
    (s.claimVerdict r v h).pending = s.pending ∧ (s.claimVerdict r v h).free = s.free
    ∧ (s.claimVerdict r v h).pins = s.pins ∧ (s.claimVerdict r v h).clock = s.clock
    ∧ (s.claimVerdict r v h).table = s.table ∧ (s.claimVerdict r v h).seq = s.seq
    ∧ (s.claimVerdict r v h).drive = s.drive ∧ (s.claimVerdict r v h).burst = s.burst
    ∧ (s.claimVerdict r v h).store = s.store ∧ (s.claimVerdict r v h).heads = s.heads
    ∧ (s.claimVerdict r v h).search = s.search ∧ (s.claimVerdict r v h).peers = s.peers
    ∧ (s.claimVerdict r v h).station = s.station ∧ (s.claimVerdict r v h).number = s.number
    ∧ (s.claimVerdict r v h).config = s.config ∧ (s.claimVerdict r v h).restrictions = s.restrictions
    ∧ (s.claimVerdict r v h).fault = s.fault ∧ (s.claimVerdict r v h).reply = s.reply := by
  unfold State.claimVerdict; (try dsimp only) <;> (repeat' split) <;> simp

@[simp] theorem claimCollided_frame (n : Nat) :
    (s.claimCollided n).pending = s.pending ∧ (s.claimCollided n).free = s.free
    ∧ (s.claimCollided n).pins = s.pins ∧ (s.claimCollided n).clock = s.clock
    ∧ (s.claimCollided n).table = s.table ∧ (s.claimCollided n).seq = s.seq
    ∧ (s.claimCollided n).drive = s.drive ∧ (s.claimCollided n).burst = s.burst
    ∧ (s.claimCollided n).store = s.store ∧ (s.claimCollided n).heads = s.heads
    ∧ (s.claimCollided n).search = s.search ∧ (s.claimCollided n).peers = s.peers
    ∧ (s.claimCollided n).station = s.station ∧ (s.claimCollided n).number = s.number
    ∧ (s.claimCollided n).config = s.config ∧ (s.claimCollided n).restrictions = s.restrictions
    ∧ (s.claimCollided n).fault = s.fault ∧ (s.claimCollided n).reply = s.reply := by
  unfold State.claimCollided; (try dsimp only) <;> (repeat' split) <;> simp

@[simp] theorem claimReturned_frame (n : Nat) :
    (s.claimReturned n).pending = s.pending ∧ (s.claimReturned n).free = s.free
    ∧ (s.claimReturned n).pins = s.pins ∧ (s.claimReturned n).clock = s.clock
    ∧ (s.claimReturned n).table = s.table ∧ (s.claimReturned n).seq = s.seq
    ∧ (s.claimReturned n).drive = s.drive ∧ (s.claimReturned n).burst = s.burst
    ∧ (s.claimReturned n).store = s.store ∧ (s.claimReturned n).heads = s.heads
    ∧ (s.claimReturned n).search = s.search ∧ (s.claimReturned n).peers = s.peers
    ∧ (s.claimReturned n).station = s.station ∧ (s.claimReturned n).number = s.number
    ∧ (s.claimReturned n).config = s.config ∧ (s.claimReturned n).restrictions = s.restrictions
    ∧ (s.claimReturned n).fault = s.fault ∧ (s.claimReturned n).reply = s.reply := by
  unfold State.claimReturned; (try dsimp only) <;> (repeat' split) <;> simp

@[simp] theorem halt_frame (c : FaultCause) (t : Time) :
    (s.halt c t).pending = s.pending ∧ (s.halt c t).pins = s.pins ∧ (s.halt c t).clock = s.clock
    ∧ (s.halt c t).table = s.table ∧ (s.halt c t).plans = s.plans ∧ (s.halt c t).burst = s.burst
    ∧ (s.halt c t).store = s.store ∧ (s.halt c t).heads = s.heads ∧ (s.halt c t).search = s.search
    ∧ (s.halt c t).link = s.link ∧ (s.halt c t).peers = s.peers ∧ (s.halt c t).number = s.number
    ∧ (s.halt c t).config = s.config ∧ (s.halt c t).restrictions = s.restrictions
    ∧ (s.halt c t).reply = s.reply := by
  unfold State.halt; (try dsimp only) <;> (repeat' split) <;> simp

@[simp] theorem collide_frame (o : OnLine) :
    (s.collide o).pending = s.pending ∧ (s.collide o).pins = s.pins ∧ (s.collide o).clock = s.clock
    ∧ (s.collide o).table = s.table ∧ (s.collide o).burst = s.burst ∧ (s.collide o).store = s.store
    ∧ (s.collide o).heads = s.heads ∧ (s.collide o).search = s.search ∧ (s.collide o).peers = s.peers
    ∧ (s.collide o).number = s.number ∧ (s.collide o).config = s.config
    ∧ (s.collide o).restrictions = s.restrictions ∧ (s.collide o).reply = s.reply := by
  unfold State.collide; (try dsimp only) <;> (repeat' split) <;> simp

@[simp] theorem updatePeer_frame (n : Station) (f : PeerEntry → PeerEntry) :
    (s.updatePeer n f).pending = s.pending ∧ (s.updatePeer n f).free = s.free
    ∧ (s.updatePeer n f).pins = s.pins ∧ (s.updatePeer n f).clock = s.clock
    ∧ (s.updatePeer n f).table = s.table ∧ (s.updatePeer n f).plans = s.plans
    ∧ (s.updatePeer n f).seq = s.seq ∧ (s.updatePeer n f).drive = s.drive
    ∧ (s.updatePeer n f).burst = s.burst ∧ (s.updatePeer n f).store = s.store
    ∧ (s.updatePeer n f).heads = s.heads ∧ (s.updatePeer n f).search = s.search
    ∧ (s.updatePeer n f).link = s.link ∧ (s.updatePeer n f).station = s.station
    ∧ (s.updatePeer n f).number = s.number ∧ (s.updatePeer n f).config = s.config
    ∧ (s.updatePeer n f).restrictions = s.restrictions ∧ (s.updatePeer n f).fault = s.fault
    ∧ (s.updatePeer n f).reply = s.reply := by
  unfold State.updatePeer; (try dsimp only) <;> (repeat' split) <;> simp

@[simp] theorem heard_frame (n : Station) :
    (s.heard n).pending = s.pending ∧ (s.heard n).free = s.free ∧ (s.heard n).pins = s.pins
    ∧ (s.heard n).clock = s.clock ∧ (s.heard n).table = s.table ∧ (s.heard n).plans = s.plans
    ∧ (s.heard n).seq = s.seq ∧ (s.heard n).drive = s.drive ∧ (s.heard n).burst = s.burst
    ∧ (s.heard n).store = s.store ∧ (s.heard n).heads = s.heads ∧ (s.heard n).search = s.search
    ∧ (s.heard n).link = s.link ∧ (s.heard n).station = s.station ∧ (s.heard n).number = s.number
    ∧ (s.heard n).config = s.config ∧ (s.heard n).restrictions = s.restrictions
    ∧ (s.heard n).fault = s.fault ∧ (s.heard n).reply = s.reply := by
  unfold State.heard; (try dsimp only) <;> (repeat' split) <;> simp

@[simp] theorem heardDigest_frame (n : Station) (d : BitVec 16) :
    (s.heardDigest n d).pending = s.pending ∧ (s.heardDigest n d).free = s.free
    ∧ (s.heardDigest n d).pins = s.pins ∧ (s.heardDigest n d).clock = s.clock
    ∧ (s.heardDigest n d).table = s.table ∧ (s.heardDigest n d).plans = s.plans
    ∧ (s.heardDigest n d).seq = s.seq ∧ (s.heardDigest n d).drive = s.drive
    ∧ (s.heardDigest n d).burst = s.burst ∧ (s.heardDigest n d).store = s.store
    ∧ (s.heardDigest n d).heads = s.heads ∧ (s.heardDigest n d).search = s.search
    ∧ (s.heardDigest n d).link = s.link ∧ (s.heardDigest n d).station = s.station
    ∧ (s.heardDigest n d).number = s.number ∧ (s.heardDigest n d).config = s.config
    ∧ (s.heardDigest n d).restrictions = s.restrictions ∧ (s.heardDigest n d).fault = s.fault
    ∧ (s.heardDigest n d).reply = s.reply := by
  unfold State.heardDigest; (try dsimp only) <;> (repeat' split) <;> simp

@[simp] theorem heardJoin_frame (n : Station) (u : BitVec 32) :
    (s.heardJoin n u).pending = s.pending ∧ (s.heardJoin n u).free = s.free
    ∧ (s.heardJoin n u).pins = s.pins ∧ (s.heardJoin n u).clock = s.clock
    ∧ (s.heardJoin n u).table = s.table ∧ (s.heardJoin n u).plans = s.plans
    ∧ (s.heardJoin n u).seq = s.seq ∧ (s.heardJoin n u).drive = s.drive
    ∧ (s.heardJoin n u).burst = s.burst ∧ (s.heardJoin n u).store = s.store
    ∧ (s.heardJoin n u).heads = s.heads ∧ (s.heardJoin n u).search = s.search
    ∧ (s.heardJoin n u).link = s.link ∧ (s.heardJoin n u).station = s.station
    ∧ (s.heardJoin n u).number = s.number ∧ (s.heardJoin n u).config = s.config
    ∧ (s.heardJoin n u).restrictions = s.restrictions ∧ (s.heardJoin n u).fault = s.fault
    ∧ (s.heardJoin n u).reply = s.reply := by
  unfold State.heardJoin; (try dsimp only) <;> (repeat' split) <;> simp

@[simp] theorem adopt_frame (t : Time) (pulse : Bool) :
    (s.adopt t pulse).pending = s.pending ∧ (s.adopt t pulse).free = s.free
    ∧ (s.adopt t pulse).pins = s.pins ∧ (s.adopt t pulse).table = s.table
    ∧ (s.adopt t pulse).plans = s.plans ∧ (s.adopt t pulse).seq = s.seq
    ∧ (s.adopt t pulse).drive = s.drive ∧ (s.adopt t pulse).burst = s.burst
    ∧ (s.adopt t pulse).store = s.store ∧ (s.adopt t pulse).heads = s.heads
    ∧ (s.adopt t pulse).search = s.search ∧ (s.adopt t pulse).link = s.link
    ∧ (s.adopt t pulse).station = s.station ∧ (s.adopt t pulse).number = s.number
    ∧ (s.adopt t pulse).config = s.config ∧ (s.adopt t pulse).restrictions = s.restrictions
    ∧ (s.adopt t pulse).fault = s.fault ∧ (s.adopt t pulse).reply = s.reply := by
  unfold State.adopt; (try dsimp only) <;> (repeat' split) <;> simp

@[simp] theorem enterJoining_frame :
    (s.enterJoining).pending = s.pending ∧ (s.enterJoining).free = s.free
    ∧ (s.enterJoining).pins = s.pins ∧ (s.enterJoining).table = s.table
    ∧ (s.enterJoining).plans = s.plans ∧ (s.enterJoining).seq = s.seq ∧ (s.enterJoining).drive = s.drive
    ∧ (s.enterJoining).burst = s.burst ∧ (s.enterJoining).store = s.store
    ∧ (s.enterJoining).heads = s.heads ∧ (s.enterJoining).search = s.search
    ∧ (s.enterJoining).number = s.number ∧ (s.enterJoining).config = s.config
    ∧ (s.enterJoining).restrictions = s.restrictions ∧ (s.enterJoining).fault = s.fault
    ∧ (s.enterJoining).reply = s.reply := by
  unfold State.enterJoining; (try dsimp only) <;> (repeat' split) <;> simp

@[simp] theorem enterDesync_frame :
    (s.enterDesync).pending = s.pending ∧ (s.enterDesync).free = s.free ∧ (s.enterDesync).pins = s.pins
    ∧ (s.enterDesync).clock = s.clock ∧ (s.enterDesync).table = s.table
    ∧ (s.enterDesync).plans = s.plans ∧ (s.enterDesync).seq = s.seq ∧ (s.enterDesync).drive = s.drive
    ∧ (s.enterDesync).burst = s.burst ∧ (s.enterDesync).store = s.store
    ∧ (s.enterDesync).heads = s.heads ∧ (s.enterDesync).search = s.search
    ∧ (s.enterDesync).station = s.station ∧ (s.enterDesync).number = s.number
    ∧ (s.enterDesync).config = s.config ∧ (s.enterDesync).restrictions = s.restrictions
    ∧ (s.enterDesync).fault = s.fault ∧ (s.enterDesync).reply = s.reply := by
  unfold State.enterDesync; (try dsimp only) <;> (repeat' split) <;> simp

@[simp] theorem desyncIf_frame (b : Bool) :
    (s.desyncIf b).pending = s.pending ∧ (s.desyncIf b).free = s.free ∧ (s.desyncIf b).pins = s.pins
    ∧ (s.desyncIf b).clock = s.clock ∧ (s.desyncIf b).table = s.table ∧ (s.desyncIf b).plans = s.plans
    ∧ (s.desyncIf b).seq = s.seq ∧ (s.desyncIf b).drive = s.drive ∧ (s.desyncIf b).burst = s.burst
    ∧ (s.desyncIf b).store = s.store ∧ (s.desyncIf b).heads = s.heads ∧ (s.desyncIf b).search = s.search
    ∧ (s.desyncIf b).station = s.station ∧ (s.desyncIf b).number = s.number
    ∧ (s.desyncIf b).config = s.config ∧ (s.desyncIf b).restrictions = s.restrictions
    ∧ (s.desyncIf b).fault = s.fault ∧ (s.desyncIf b).reply = s.reply := by
  unfold State.desyncIf; (try dsimp only) <;> (repeat' split) <;> simp

@[simp] theorem abandon_frame :
    (s.abandon).pending = s.pending ∧ (s.abandon).free = s.free ∧ (s.abandon).pins = s.pins
    ∧ (s.abandon).clock = s.clock ∧ (s.abandon).plans = s.plans ∧ (s.abandon).seq = s.seq
    ∧ (s.abandon).drive = s.drive ∧ (s.abandon).burst = s.burst ∧ (s.abandon).store = s.store
    ∧ (s.abandon).heads = s.heads ∧ (s.abandon).search = s.search ∧ (s.abandon).station = s.station
    ∧ (s.abandon).number = s.number ∧ (s.abandon).config = s.config
    ∧ (s.abandon).restrictions = s.restrictions ∧ (s.abandon).fault = s.fault
    ∧ (s.abandon).reply = s.reply := by
  unfold State.abandon; (try dsimp only) <;> (repeat' split) <;> simp

@[simp] theorem errorTaken_frame :
    (s.errorTaken).pending = s.pending ∧ (s.errorTaken).free = s.free ∧ (s.errorTaken).pins = s.pins
    ∧ (s.errorTaken).clock = s.clock ∧ (s.errorTaken).plans = s.plans ∧ (s.errorTaken).seq = s.seq
    ∧ (s.errorTaken).drive = s.drive ∧ (s.errorTaken).burst = s.burst ∧ (s.errorTaken).store = s.store
    ∧ (s.errorTaken).heads = s.heads ∧ (s.errorTaken).search = s.search
    ∧ (s.errorTaken).station = s.station ∧ (s.errorTaken).number = s.number
    ∧ (s.errorTaken).config = s.config ∧ (s.errorTaken).restrictions = s.restrictions
    ∧ (s.errorTaken).fault = s.fault ∧ (s.errorTaken).reply = s.reply := by
  unfold State.errorTaken; (try dsimp only) <;> (repeat' split) <;> simp

@[simp] theorem completeIfCollected_frame :
    (s.completeIfCollected).pending = s.pending ∧ (s.completeIfCollected).free = s.free
    ∧ (s.completeIfCollected).pins = s.pins ∧ (s.completeIfCollected).clock = s.clock
    ∧ (s.completeIfCollected).table = s.table ∧ (s.completeIfCollected).plans = s.plans
    ∧ (s.completeIfCollected).seq = s.seq ∧ (s.completeIfCollected).drive = s.drive
    ∧ (s.completeIfCollected).burst = s.burst ∧ (s.completeIfCollected).store = s.store
    ∧ (s.completeIfCollected).heads = s.heads ∧ (s.completeIfCollected).search = s.search
    ∧ (s.completeIfCollected).peers = s.peers ∧ (s.completeIfCollected).station = s.station
    ∧ (s.completeIfCollected).number = s.number ∧ (s.completeIfCollected).config = s.config
    ∧ (s.completeIfCollected).restrictions = s.restrictions ∧ (s.completeIfCollected).fault = s.fault
    ∧ (s.completeIfCollected).reply = s.reply := by
  unfold State.completeIfCollected; (try dsimp only) <;> (repeat' split) <;> simp

@[simp] theorem dropAwaited_frame (n : Station) :
    (s.dropAwaited n).pending = s.pending ∧ (s.dropAwaited n).free = s.free
    ∧ (s.dropAwaited n).pins = s.pins ∧ (s.dropAwaited n).clock = s.clock
    ∧ (s.dropAwaited n).table = s.table ∧ (s.dropAwaited n).plans = s.plans
    ∧ (s.dropAwaited n).seq = s.seq ∧ (s.dropAwaited n).drive = s.drive
    ∧ (s.dropAwaited n).burst = s.burst ∧ (s.dropAwaited n).store = s.store
    ∧ (s.dropAwaited n).heads = s.heads ∧ (s.dropAwaited n).search = s.search
    ∧ (s.dropAwaited n).station = s.station ∧ (s.dropAwaited n).number = s.number
    ∧ (s.dropAwaited n).config = s.config ∧ (s.dropAwaited n).restrictions = s.restrictions
    ∧ (s.dropAwaited n).fault = s.fault ∧ (s.dropAwaited n).reply = s.reply := by
  unfold State.dropAwaited; (try dsimp only) <;> (repeat' split) <;> simp

@[simp] theorem becomeRequester_frame :
    (s.becomeRequester).pending = s.pending ∧ (s.becomeRequester).free = s.free
    ∧ (s.becomeRequester).pins = s.pins ∧ (s.becomeRequester).clock = s.clock
    ∧ (s.becomeRequester).plans = s.plans ∧ (s.becomeRequester).seq = s.seq
    ∧ (s.becomeRequester).drive = s.drive ∧ (s.becomeRequester).burst = s.burst
    ∧ (s.becomeRequester).store = s.store ∧ (s.becomeRequester).heads = s.heads
    ∧ (s.becomeRequester).search = s.search ∧ (s.becomeRequester).station = s.station
    ∧ (s.becomeRequester).number = s.number ∧ (s.becomeRequester).config = s.config
    ∧ (s.becomeRequester).restrictions = s.restrictions ∧ (s.becomeRequester).fault = s.fault
    ∧ (s.becomeRequester).reply = s.reply := by
  unfold State.becomeRequester; (try dsimp only) <;> (repeat' split) <;> simp

@[simp] theorem endResync_frame :
    (s.endResync).pending = s.pending ∧ (s.endResync).free = s.free ∧ (s.endResync).pins = s.pins
    ∧ (s.endResync).clock = s.clock ∧ (s.endResync).table = s.table ∧ (s.endResync).plans = s.plans
    ∧ (s.endResync).seq = s.seq ∧ (s.endResync).drive = s.drive ∧ (s.endResync).burst = s.burst
    ∧ (s.endResync).store = s.store ∧ (s.endResync).heads = s.heads ∧ (s.endResync).search = s.search
    ∧ (s.endResync).link = s.link ∧ (s.endResync).number = s.number ∧ (s.endResync).config = s.config
    ∧ (s.endResync).restrictions = s.restrictions ∧ (s.endResync).fault = s.fault
    ∧ (s.endResync).reply = s.reply := by
  unfold State.endResync; (try dsimp only) <;> (repeat' split) <;> simp

@[simp] theorem help_frame (n : Station) :
    (s.help n).pending = s.pending ∧ (s.help n).free = s.free ∧ (s.help n).pins = s.pins
    ∧ (s.help n).clock = s.clock ∧ (s.help n).table = s.table ∧ (s.help n).plans = s.plans
    ∧ (s.help n).seq = s.seq ∧ (s.help n).drive = s.drive ∧ (s.help n).burst = s.burst
    ∧ (s.help n).store = s.store ∧ (s.help n).heads = s.heads ∧ (s.help n).search = s.search
    ∧ (s.help n).station = s.station ∧ (s.help n).number = s.number ∧ (s.help n).config = s.config
    ∧ (s.help n).restrictions = s.restrictions ∧ (s.help n).fault = s.fault ∧ (s.help n).reply = s.reply := by
  unfold State.help; (try dsimp only) <;> (repeat' split) <;> simp

@[simp] theorem pulseLost_frame :
    (s.pulseLost).pending = s.pending ∧ (s.pulseLost).free = s.free ∧ (s.pulseLost).pins = s.pins
    ∧ (s.pulseLost).clock = s.clock ∧ (s.pulseLost).table = s.table ∧ (s.pulseLost).plans = s.plans
    ∧ (s.pulseLost).seq = s.seq ∧ (s.pulseLost).drive = s.drive ∧ (s.pulseLost).burst = s.burst
    ∧ (s.pulseLost).store = s.store ∧ (s.pulseLost).heads = s.heads ∧ (s.pulseLost).search = s.search
    ∧ (s.pulseLost).station = s.station ∧ (s.pulseLost).number = s.number
    ∧ (s.pulseLost).config = s.config ∧ (s.pulseLost).restrictions = s.restrictions
    ∧ (s.pulseLost).fault = s.fault ∧ (s.pulseLost).reply = s.reply := by
  unfold State.pulseLost; (try dsimp only) <;> (repeat' split) <;> simp

@[simp] theorem pulseListen_frame :
    (s.pulseListen).pending = s.pending ∧ (s.pulseListen).free = s.free ∧ (s.pulseListen).pins = s.pins
    ∧ (s.pulseListen).table = s.table ∧ (s.pulseListen).plans = s.plans ∧ (s.pulseListen).seq = s.seq
    ∧ (s.pulseListen).drive = s.drive ∧ (s.pulseListen).burst = s.burst
    ∧ (s.pulseListen).store = s.store ∧ (s.pulseListen).heads = s.heads
    ∧ (s.pulseListen).search = s.search ∧ (s.pulseListen).number = s.number
    ∧ (s.pulseListen).config = s.config ∧ (s.pulseListen).restrictions = s.restrictions
    ∧ (s.pulseListen).fault = s.fault ∧ (s.pulseListen).reply = s.reply := by
  unfold State.pulseListen; (try dsimp only) <;> (repeat' split) <;> simp

@[simp] theorem pulseQuiet_frame :
    (s.pulseQuiet).pending = s.pending ∧ (s.pulseQuiet).free = s.free ∧ (s.pulseQuiet).pins = s.pins
    ∧ (s.pulseQuiet).clock = s.clock ∧ (s.pulseQuiet).table = s.table ∧ (s.pulseQuiet).plans = s.plans
    ∧ (s.pulseQuiet).seq = s.seq ∧ (s.pulseQuiet).drive = s.drive ∧ (s.pulseQuiet).burst = s.burst
    ∧ (s.pulseQuiet).store = s.store ∧ (s.pulseQuiet).heads = s.heads ∧ (s.pulseQuiet).search = s.search
    ∧ (s.pulseQuiet).link = s.link ∧ (s.pulseQuiet).station = s.station
    ∧ (s.pulseQuiet).number = s.number ∧ (s.pulseQuiet).config = s.config
    ∧ (s.pulseQuiet).restrictions = s.restrictions ∧ (s.pulseQuiet).fault = s.fault
    ∧ (s.pulseQuiet).reply = s.reply := by
  unfold State.pulseQuiet; (try dsimp only) <;> (repeat' split) <;> simp

@[simp] theorem pulseReRequest_frame :
    (s.pulseReRequest).pending = s.pending ∧ (s.pulseReRequest).free = s.free
    ∧ (s.pulseReRequest).pins = s.pins ∧ (s.pulseReRequest).clock = s.clock
    ∧ (s.pulseReRequest).table = s.table ∧ (s.pulseReRequest).plans = s.plans
    ∧ (s.pulseReRequest).seq = s.seq ∧ (s.pulseReRequest).drive = s.drive
    ∧ (s.pulseReRequest).burst = s.burst ∧ (s.pulseReRequest).store = s.store
    ∧ (s.pulseReRequest).heads = s.heads ∧ (s.pulseReRequest).search = s.search
    ∧ (s.pulseReRequest).station = s.station ∧ (s.pulseReRequest).number = s.number
    ∧ (s.pulseReRequest).config = s.config ∧ (s.pulseReRequest).restrictions = s.restrictions
    ∧ (s.pulseReRequest).fault = s.fault ∧ (s.pulseReRequest).reply = s.reply := by
  unfold State.pulseReRequest; (try dsimp only) <;> (repeat' split) <;> simp

@[simp] theorem pulseRequester_frame :
    (s.pulseRequester).pending = s.pending ∧ (s.pulseRequester).free = s.free
    ∧ (s.pulseRequester).pins = s.pins ∧ (s.pulseRequester).clock = s.clock
    ∧ (s.pulseRequester).plans = s.plans ∧ (s.pulseRequester).seq = s.seq
    ∧ (s.pulseRequester).drive = s.drive ∧ (s.pulseRequester).burst = s.burst
    ∧ (s.pulseRequester).store = s.store ∧ (s.pulseRequester).heads = s.heads
    ∧ (s.pulseRequester).search = s.search ∧ (s.pulseRequester).station = s.station
    ∧ (s.pulseRequester).number = s.number ∧ (s.pulseRequester).config = s.config
    ∧ (s.pulseRequester).restrictions = s.restrictions ∧ (s.pulseRequester).fault = s.fault
    ∧ (s.pulseRequester).reply = s.reply := by
  unfold State.pulseRequester; (try dsimp only) <;> (repeat' split) <;> simp

@[simp] theorem peerPulse_frame :
    (s.peerPulse).pending = s.pending ∧ (s.peerPulse).free = s.free ∧ (s.peerPulse).pins = s.pins
    ∧ (s.peerPulse).plans = s.plans ∧ (s.peerPulse).seq = s.seq ∧ (s.peerPulse).drive = s.drive
    ∧ (s.peerPulse).burst = s.burst ∧ (s.peerPulse).store = s.store ∧ (s.peerPulse).heads = s.heads
    ∧ (s.peerPulse).search = s.search ∧ (s.peerPulse).number = s.number
    ∧ (s.peerPulse).config = s.config ∧ (s.peerPulse).restrictions = s.restrictions
    ∧ (s.peerPulse).fault = s.fault ∧ (s.peerPulse).reply = s.reply := by
  unfold State.peerPulse; (try dsimp only) <;> (repeat' split) <;> simp

@[simp] theorem takePulse_frame (i : Nat) :
    (s.takePulse i).pending = s.pending ∧ (s.takePulse i).free = s.free ∧ (s.takePulse i).pins = s.pins
    ∧ (s.takePulse i).plans = s.plans ∧ (s.takePulse i).seq = s.seq ∧ (s.takePulse i).drive = s.drive
    ∧ (s.takePulse i).burst = s.burst ∧ (s.takePulse i).heads = s.heads ∧ (s.takePulse i).search = s.search
    ∧ (s.takePulse i).number = s.number ∧ (s.takePulse i).config = s.config
    ∧ (s.takePulse i).restrictions = s.restrictions ∧ (s.takePulse i).fault = s.fault
    ∧ (s.takePulse i).reply = s.reply := by
  unfold State.takePulse; (try dsimp only) <;> (repeat' split) <;> simp

@[simp] theorem loopClaim_frame (t : Time) (n : Nat) (k : PlanKind) (ws we : Time) (l : Nat) :
    (s.loopClaim t n k ws we l).pending = s.pending ∧ (s.loopClaim t n k ws we l).free = s.free
    ∧ (s.loopClaim t n k ws we l).pins = s.pins ∧ (s.loopClaim t n k ws we l).clock = s.clock
    ∧ (s.loopClaim t n k ws we l).seq = s.seq ∧ (s.loopClaim t n k ws we l).drive = s.drive
    ∧ (s.loopClaim t n k ws we l).burst = s.burst ∧ (s.loopClaim t n k ws we l).store = s.store
    ∧ (s.loopClaim t n k ws we l).heads = s.heads ∧ (s.loopClaim t n k ws we l).search = s.search
    ∧ (s.loopClaim t n k ws we l).station = s.station ∧ (s.loopClaim t n k ws we l).number = s.number
    ∧ (s.loopClaim t n k ws we l).config = s.config
    ∧ (s.loopClaim t n k ws we l).restrictions = s.restrictions
    ∧ (s.loopClaim t n k ws we l).fault = s.fault ∧ (s.loopClaim t n k ws we l).reply = s.reply := by
  unfold State.loopClaim; (try dsimp only) <;> (repeat' split) <;> simp

@[simp] theorem loopRelease_frame (t : Time) (n : Nat) (x : Time) :
    (s.loopRelease t n x).pending = s.pending ∧ (s.loopRelease t n x).free = s.free
    ∧ (s.loopRelease t n x).pins = s.pins ∧ (s.loopRelease t n x).clock = s.clock
    ∧ (s.loopRelease t n x).seq = s.seq ∧ (s.loopRelease t n x).drive = s.drive
    ∧ (s.loopRelease t n x).burst = s.burst ∧ (s.loopRelease t n x).store = s.store
    ∧ (s.loopRelease t n x).heads = s.heads ∧ (s.loopRelease t n x).search = s.search
    ∧ (s.loopRelease t n x).station = s.station ∧ (s.loopRelease t n x).number = s.number
    ∧ (s.loopRelease t n x).config = s.config ∧ (s.loopRelease t n x).restrictions = s.restrictions
    ∧ (s.loopRelease t n x).fault = s.fault ∧ (s.loopRelease t n x).reply = s.reply := by
  unfold State.loopRelease; (try dsimp only) <;> (repeat' split) <;> simp

@[simp] theorem loopback_frame (f : LinkFrame) :
    (s.loopback f).pending = s.pending ∧ (s.loopback f).free = s.free ∧ (s.loopback f).pins = s.pins
    ∧ (s.loopback f).clock = s.clock ∧ (s.loopback f).seq = s.seq ∧ (s.loopback f).drive = s.drive
    ∧ (s.loopback f).burst = s.burst ∧ (s.loopback f).store = s.store ∧ (s.loopback f).heads = s.heads
    ∧ (s.loopback f).search = s.search ∧ (s.loopback f).number = s.number
    ∧ (s.loopback f).config = s.config ∧ (s.loopback f).restrictions = s.restrictions
    ∧ (s.loopback f).fault = s.fault ∧ (s.loopback f).reply = s.reply := by
  unfold State.loopback; (try dsimp only) <;> (repeat' split) <;> simp

@[simp] theorem complete_frame (o : OnLine) :
    (s.complete o).pending = s.pending ∧ (s.complete o).free = s.free ∧ (s.complete o).pins = s.pins
    ∧ (s.complete o).clock = s.clock ∧ (s.complete o).seq = s.seq ∧ (s.complete o).drive = s.drive
    ∧ (s.complete o).burst = s.burst ∧ (s.complete o).store = s.store ∧ (s.complete o).heads = s.heads
    ∧ (s.complete o).search = s.search ∧ (s.complete o).number = s.number
    ∧ (s.complete o).config = s.config ∧ (s.complete o).restrictions = s.restrictions
    ∧ (s.complete o).fault = s.fault ∧ (s.complete o).reply = s.reply := by
  unfold State.complete; (try dsimp only) <;> (repeat' split) <;> simp

@[simp] theorem foreignLevel_frame :
    (s.foreignLevel).pending = s.pending ∧ (s.foreignLevel).free = s.free ∧ (s.foreignLevel).pins = s.pins
    ∧ (s.foreignLevel).clock = s.clock ∧ (s.foreignLevel).table = s.table
    ∧ (s.foreignLevel).plans = s.plans ∧ (s.foreignLevel).seq = s.seq
    ∧ (s.foreignLevel).drive = s.drive ∧ (s.foreignLevel).burst = s.burst
    ∧ (s.foreignLevel).store = s.store ∧ (s.foreignLevel).heads = s.heads
    ∧ (s.foreignLevel).search = s.search ∧ (s.foreignLevel).peers = s.peers
    ∧ (s.foreignLevel).station = s.station ∧ (s.foreignLevel).number = s.number
    ∧ (s.foreignLevel).config = s.config ∧ (s.foreignLevel).restrictions = s.restrictions
    ∧ (s.foreignLevel).fault = s.fault ∧ (s.foreignLevel).reply = s.reply := by
  unfold State.foreignLevel; (try dsimp only) <;> (repeat' split) <;> simp

@[simp] theorem ownNumberFrame_frame (t : Time) :
    (s.ownNumberFrame t).pending = s.pending ∧ (s.ownNumberFrame t).pins = s.pins
    ∧ (s.ownNumberFrame t).clock = s.clock ∧ (s.ownNumberFrame t).table = s.table
    ∧ (s.ownNumberFrame t).plans = s.plans ∧ (s.ownNumberFrame t).burst = s.burst
    ∧ (s.ownNumberFrame t).store = s.store ∧ (s.ownNumberFrame t).heads = s.heads
    ∧ (s.ownNumberFrame t).search = s.search ∧ (s.ownNumberFrame t).link = s.link
    ∧ (s.ownNumberFrame t).peers = s.peers ∧ (s.ownNumberFrame t).number = s.number
    ∧ (s.ownNumberFrame t).config = s.config ∧ (s.ownNumberFrame t).restrictions = s.restrictions
    ∧ (s.ownNumberFrame t).reply = s.reply := by
  unfold State.ownNumberFrame; (try dsimp only) <;> (repeat' split) <;> simp

@[simp] theorem purgeAt_frame (t : Time) :
    (s.purgeAt t).pending = s.pending ∧ (s.purgeAt t).free = s.free ∧ (s.purgeAt t).pins = s.pins
    ∧ (s.purgeAt t).clock = s.clock ∧ (s.purgeAt t).plans = s.plans ∧ (s.purgeAt t).seq = s.seq
    ∧ (s.purgeAt t).drive = s.drive ∧ (s.purgeAt t).burst = s.burst ∧ (s.purgeAt t).store = s.store
    ∧ (s.purgeAt t).heads = s.heads ∧ (s.purgeAt t).search = s.search ∧ (s.purgeAt t).link = s.link
    ∧ (s.purgeAt t).peers = s.peers ∧ (s.purgeAt t).station = s.station
    ∧ (s.purgeAt t).number = s.number ∧ (s.purgeAt t).config = s.config
    ∧ (s.purgeAt t).restrictions = s.restrictions ∧ (s.purgeAt t).fault = s.fault
    ∧ (s.purgeAt t).reply = s.reply := by
  unfold State.purgeAt; (try dsimp only) <;> (repeat' split) <;> simp

@[simp] theorem peerJoin_frame (n : Station) (t : Time) (u : BitVec 32) (b : Bool) :
    (s.peerJoin n t u b).pending = s.pending ∧ (s.peerJoin n t u b).free = s.free
    ∧ (s.peerJoin n t u b).pins = s.pins ∧ (s.peerJoin n t u b).plans = s.plans
    ∧ (s.peerJoin n t u b).seq = s.seq ∧ (s.peerJoin n t u b).drive = s.drive
    ∧ (s.peerJoin n t u b).burst = s.burst ∧ (s.peerJoin n t u b).store = s.store
    ∧ (s.peerJoin n t u b).heads = s.heads ∧ (s.peerJoin n t u b).search = s.search
    ∧ (s.peerJoin n t u b).station = s.station ∧ (s.peerJoin n t u b).number = s.number
    ∧ (s.peerJoin n t u b).config = s.config ∧ (s.peerJoin n t u b).restrictions = s.restrictions
    ∧ (s.peerJoin n t u b).fault = s.fault ∧ (s.peerJoin n t u b).reply = s.reply := by
  unfold State.peerJoin; (try dsimp only) <;> (repeat' split) <;> simp

@[simp] theorem peerBeacon_frame (n : Station) (t : Time) (d : BitVec 16) (c y : Byte) (b : Bool) :
    (s.peerBeacon n t d c y b).pending = s.pending ∧ (s.peerBeacon n t d c y b).free = s.free
    ∧ (s.peerBeacon n t d c y b).pins = s.pins ∧ (s.peerBeacon n t d c y b).plans = s.plans
    ∧ (s.peerBeacon n t d c y b).seq = s.seq ∧ (s.peerBeacon n t d c y b).drive = s.drive
    ∧ (s.peerBeacon n t d c y b).burst = s.burst ∧ (s.peerBeacon n t d c y b).store = s.store
    ∧ (s.peerBeacon n t d c y b).heads = s.heads ∧ (s.peerBeacon n t d c y b).search = s.search
    ∧ (s.peerBeacon n t d c y b).station = s.station ∧ (s.peerBeacon n t d c y b).number = s.number
    ∧ (s.peerBeacon n t d c y b).config = s.config
    ∧ (s.peerBeacon n t d c y b).restrictions = s.restrictions
    ∧ (s.peerBeacon n t d c y b).fault = s.fault ∧ (s.peerBeacon n t d c y b).reply = s.reply := by
  unfold State.peerBeacon; (try dsimp only) <;> (repeat' split) <;> simp

@[simp] theorem peerClaim_frame (n : Station) (t : Time) (c k : Byte) (ws we : Time) (l : Byte) (b : Bool) :
    (s.peerClaim n t c k ws we l b).pending = s.pending ∧ (s.peerClaim n t c k ws we l b).free = s.free
    ∧ (s.peerClaim n t c k ws we l b).pins = s.pins ∧ (s.peerClaim n t c k ws we l b).plans = s.plans
    ∧ (s.peerClaim n t c k ws we l b).seq = s.seq ∧ (s.peerClaim n t c k ws we l b).drive = s.drive
    ∧ (s.peerClaim n t c k ws we l b).burst = s.burst ∧ (s.peerClaim n t c k ws we l b).store = s.store
    ∧ (s.peerClaim n t c k ws we l b).heads = s.heads
    ∧ (s.peerClaim n t c k ws we l b).search = s.search
    ∧ (s.peerClaim n t c k ws we l b).station = s.station
    ∧ (s.peerClaim n t c k ws we l b).number = s.number
    ∧ (s.peerClaim n t c k ws we l b).config = s.config
    ∧ (s.peerClaim n t c k ws we l b).restrictions = s.restrictions
    ∧ (s.peerClaim n t c k ws we l b).fault = s.fault ∧ (s.peerClaim n t c k ws we l b).reply = s.reply := by
  unfold State.peerClaim; (try dsimp only) <;> (repeat' split) <;> simp

@[simp] theorem peerRelease_frame (n : Station) (t : Time) (c : Byte) (x : Time) (b : Bool) :
    (s.peerRelease n t c x b).pending = s.pending ∧ (s.peerRelease n t c x b).free = s.free
    ∧ (s.peerRelease n t c x b).pins = s.pins ∧ (s.peerRelease n t c x b).plans = s.plans
    ∧ (s.peerRelease n t c x b).seq = s.seq ∧ (s.peerRelease n t c x b).drive = s.drive
    ∧ (s.peerRelease n t c x b).burst = s.burst ∧ (s.peerRelease n t c x b).store = s.store
    ∧ (s.peerRelease n t c x b).heads = s.heads ∧ (s.peerRelease n t c x b).search = s.search
    ∧ (s.peerRelease n t c x b).station = s.station ∧ (s.peerRelease n t c x b).number = s.number
    ∧ (s.peerRelease n t c x b).config = s.config
    ∧ (s.peerRelease n t c x b).restrictions = s.restrictions
    ∧ (s.peerRelease n t c x b).fault = s.fault ∧ (s.peerRelease n t c x b).reply = s.reply := by
  unfold State.peerRelease; (try dsimp only) <;> (repeat' split) <;> simp

@[simp] theorem peerSyncRequest_frame (n : Station) :
    (s.peerSyncRequest n).pending = s.pending ∧ (s.peerSyncRequest n).free = s.free
    ∧ (s.peerSyncRequest n).pins = s.pins ∧ (s.peerSyncRequest n).plans = s.plans
    ∧ (s.peerSyncRequest n).seq = s.seq ∧ (s.peerSyncRequest n).drive = s.drive
    ∧ (s.peerSyncRequest n).burst = s.burst ∧ (s.peerSyncRequest n).store = s.store
    ∧ (s.peerSyncRequest n).heads = s.heads ∧ (s.peerSyncRequest n).search = s.search
    ∧ (s.peerSyncRequest n).station = s.station ∧ (s.peerSyncRequest n).number = s.number
    ∧ (s.peerSyncRequest n).config = s.config ∧ (s.peerSyncRequest n).restrictions = s.restrictions
    ∧ (s.peerSyncRequest n).fault = s.fault ∧ (s.peerSyncRequest n).reply = s.reply := by
  unfold State.peerSyncRequest; (try dsimp only) <;> (repeat' split) <;> simp

@[simp] theorem peerAnnounce_frame (n : Station) (f : Byte) (es : List AnnounceEntry) :
    (s.peerAnnounce n f es).pending = s.pending ∧ (s.peerAnnounce n f es).free = s.free
    ∧ (s.peerAnnounce n f es).pins = s.pins ∧ (s.peerAnnounce n f es).plans = s.plans
    ∧ (s.peerAnnounce n f es).seq = s.seq ∧ (s.peerAnnounce n f es).drive = s.drive
    ∧ (s.peerAnnounce n f es).burst = s.burst ∧ (s.peerAnnounce n f es).store = s.store
    ∧ (s.peerAnnounce n f es).heads = s.heads ∧ (s.peerAnnounce n f es).search = s.search
    ∧ (s.peerAnnounce n f es).station = s.station ∧ (s.peerAnnounce n f es).number = s.number
    ∧ (s.peerAnnounce n f es).config = s.config ∧ (s.peerAnnounce n f es).restrictions = s.restrictions
    ∧ (s.peerAnnounce n f es).fault = s.fault ∧ (s.peerAnnounce n f es).reply = s.reply := by
  unfold State.peerAnnounce; (try dsimp only) <;> (repeat' split) <;> simp

@[simp] theorem peerSyncDone_frame (n : Station) (t : Time) (d : BitVec 16) (b : Bool) :
    (s.peerSyncDone n t d b).pending = s.pending ∧ (s.peerSyncDone n t d b).free = s.free
    ∧ (s.peerSyncDone n t d b).pins = s.pins ∧ (s.peerSyncDone n t d b).plans = s.plans
    ∧ (s.peerSyncDone n t d b).seq = s.seq ∧ (s.peerSyncDone n t d b).drive = s.drive
    ∧ (s.peerSyncDone n t d b).burst = s.burst ∧ (s.peerSyncDone n t d b).store = s.store
    ∧ (s.peerSyncDone n t d b).heads = s.heads ∧ (s.peerSyncDone n t d b).search = s.search
    ∧ (s.peerSyncDone n t d b).station = s.station ∧ (s.peerSyncDone n t d b).number = s.number
    ∧ (s.peerSyncDone n t d b).config = s.config
    ∧ (s.peerSyncDone n t d b).restrictions = s.restrictions ∧ (s.peerSyncDone n t d b).fault = s.fault
    ∧ (s.peerSyncDone n t d b).reply = s.reply := by
  unfold State.peerSyncDone; (try dsimp only) <;> (repeat' split) <;> simp

@[simp] theorem frameError_frame (b : Bool) :
    (s.frameError b).pending = s.pending ∧ (s.frameError b).free = s.free
    ∧ (s.frameError b).pins = s.pins ∧ (s.frameError b).clock = s.clock
    ∧ (s.frameError b).plans = s.plans ∧ (s.frameError b).seq = s.seq ∧ (s.frameError b).drive = s.drive
    ∧ (s.frameError b).burst = s.burst ∧ (s.frameError b).store = s.store
    ∧ (s.frameError b).heads = s.heads ∧ (s.frameError b).search = s.search
    ∧ (s.frameError b).station = s.station ∧ (s.frameError b).number = s.number
    ∧ (s.frameError b).config = s.config ∧ (s.frameError b).restrictions = s.restrictions
    ∧ (s.frameError b).fault = s.fault ∧ (s.frameError b).reply = s.reply := by
  unfold State.frameError; (try dsimp only) <;> (repeat' split) <;> simp

@[simp] theorem startWrite_frame (r : Record) (p : Profile) :
    (s.startWrite r p).pending = s.pending ∧ (s.startWrite r p).pins = s.pins
    ∧ (s.startWrite r p).clock = s.clock ∧ (s.startWrite r p).table = s.table
    ∧ (s.startWrite r p).store = s.store ∧ (s.startWrite r p).heads = s.heads
    ∧ (s.startWrite r p).search = s.search ∧ (s.startWrite r p).link = s.link
    ∧ (s.startWrite r p).peers = s.peers ∧ (s.startWrite r p).station = s.station
    ∧ (s.startWrite r p).number = s.number ∧ (s.startWrite r p).config = s.config
    ∧ (s.startWrite r p).restrictions = s.restrictions ∧ (s.startWrite r p).fault = s.fault
    ∧ (s.startWrite r p).reply = s.reply := by
  unfold State.startWrite; (try dsimp only) <;> (repeat' split) <;> simp

@[simp] theorem strayGate_frame :
    (s.strayGate).pending = s.pending ∧ (s.strayGate).free = s.free ∧ (s.strayGate).pins = s.pins
    ∧ (s.strayGate).clock = s.clock ∧ (s.strayGate).table = s.table ∧ (s.strayGate).plans = s.plans
    ∧ (s.strayGate).drive = s.drive ∧ (s.strayGate).burst = s.burst ∧ (s.strayGate).store = s.store
    ∧ (s.strayGate).heads = s.heads ∧ (s.strayGate).search = s.search ∧ (s.strayGate).link = s.link
    ∧ (s.strayGate).peers = s.peers ∧ (s.strayGate).station = s.station
    ∧ (s.strayGate).number = s.number ∧ (s.strayGate).config = s.config
    ∧ (s.strayGate).restrictions = s.restrictions ∧ (s.strayGate).reply = s.reply := by
  unfold State.strayGate; (try dsimp only) <;> (repeat' split) <;> simp

@[simp] theorem planGateRise_frame (r : Record) :
    (s.planGateRise r).pending = s.pending ∧ (s.planGateRise r).pins = s.pins
    ∧ (s.planGateRise r).clock = s.clock ∧ (s.planGateRise r).table = s.table
    ∧ (s.planGateRise r).peers = s.peers ∧ (s.planGateRise r).station = s.station
    ∧ (s.planGateRise r).number = s.number ∧ (s.planGateRise r).config = s.config
    ∧ (s.planGateRise r).restrictions = s.restrictions ∧ (s.planGateRise r).reply = s.reply := by
  unfold State.planGateRise; (try dsimp only) <;> (repeat' split) <;> simp

@[simp] theorem planGateFall_frame (r : Record) :
    (s.planGateFall r).pending = s.pending ∧ (s.planGateFall r).pins = s.pins
    ∧ (s.planGateFall r).clock = s.clock ∧ (s.planGateFall r).table = s.table
    ∧ (s.planGateFall r).peers = s.peers ∧ (s.planGateFall r).station = s.station
    ∧ (s.planGateFall r).number = s.number ∧ (s.planGateFall r).config = s.config
    ∧ (s.planGateFall r).restrictions = s.restrictions ∧ (s.planGateFall r).fault = s.fault
    ∧ (s.planGateFall r).reply = s.reply := by
  unfold State.planGateFall; (try dsimp only) <;> (repeat' split) <;> simp

@[simp] theorem planServoRise_frame (r : Record) :
    (s.planServoRise r).pending = s.pending ∧ (s.planServoRise r).pins = s.pins
    ∧ (s.planServoRise r).clock = s.clock ∧ (s.planServoRise r).table = s.table
    ∧ (s.planServoRise r).peers = s.peers ∧ (s.planServoRise r).station = s.station
    ∧ (s.planServoRise r).number = s.number ∧ (s.planServoRise r).config = s.config
    ∧ (s.planServoRise r).restrictions = s.restrictions ∧ (s.planServoRise r).fault = s.fault
    ∧ (s.planServoRise r).reply = s.reply := by
  unfold State.planServoRise; (try dsimp only) <;> (repeat' split) <;> simp

@[simp] theorem planServoFall_frame (r : Record) :
    (s.planServoFall r).pending = s.pending ∧ (s.planServoFall r).pins = s.pins
    ∧ (s.planServoFall r).clock = s.clock ∧ (s.planServoFall r).table = s.table
    ∧ (s.planServoFall r).peers = s.peers ∧ (s.planServoFall r).station = s.station
    ∧ (s.planServoFall r).number = s.number ∧ (s.planServoFall r).config = s.config
    ∧ (s.planServoFall r).restrictions = s.restrictions ∧ (s.planServoFall r).fault = s.fault
    ∧ (s.planServoFall r).reply = s.reply := by
  unfold State.planServoFall; (try dsimp only) <;> (repeat' split) <;> simp

@[simp] theorem openRail_frame (r : Record) :
    (s.openRail r).pending = s.pending ∧ (s.openRail r).free = s.free ∧ (s.openRail r).pins = s.pins
    ∧ (s.openRail r).clock = s.clock ∧ (s.openRail r).table = s.table ∧ (s.openRail r).drive = s.drive
    ∧ (s.openRail r).burst = s.burst ∧ (s.openRail r).store = s.store ∧ (s.openRail r).heads = s.heads
    ∧ (s.openRail r).search = s.search ∧ (s.openRail r).peers = s.peers
    ∧ (s.openRail r).station = s.station ∧ (s.openRail r).number = s.number
    ∧ (s.openRail r).config = s.config ∧ (s.openRail r).restrictions = s.restrictions
    ∧ (s.openRail r).fault = s.fault ∧ (s.openRail r).reply = s.reply := by
  unfold State.openRail; (try dsimp only) <;> (repeat' split) <;> simp

@[simp] theorem openWrite_frame (r : Record) (p : Profile) :
    (s.openWrite r p).pending = s.pending ∧ (s.openWrite r p).pins = s.pins
    ∧ (s.openWrite r p).clock = s.clock ∧ (s.openWrite r p).table = s.table
    ∧ (s.openWrite r p).store = s.store ∧ (s.openWrite r p).heads = s.heads
    ∧ (s.openWrite r p).search = s.search ∧ (s.openWrite r p).link = s.link
    ∧ (s.openWrite r p).peers = s.peers ∧ (s.openWrite r p).station = s.station
    ∧ (s.openWrite r p).number = s.number ∧ (s.openWrite r p).config = s.config
    ∧ (s.openWrite r p).restrictions = s.restrictions ∧ (s.openWrite r p).fault = s.fault
    ∧ (s.openWrite r p).reply = s.reply := by
  unfold State.openWrite; (try dsimp only) <;> (repeat' split) <;> simp

@[simp] theorem openCal_frame (r : Record) :
    (s.openCal r).pending = s.pending ∧ (s.openCal r).pins = s.pins ∧ (s.openCal r).clock = s.clock
    ∧ (s.openCal r).table = s.table ∧ (s.openCal r).burst = s.burst ∧ (s.openCal r).store = s.store
    ∧ (s.openCal r).heads = s.heads ∧ (s.openCal r).link = s.link ∧ (s.openCal r).peers = s.peers
    ∧ (s.openCal r).station = s.station ∧ (s.openCal r).number = s.number
    ∧ (s.openCal r).config = s.config ∧ (s.openCal r).restrictions = s.restrictions
    ∧ (s.openCal r).fault = s.fault ∧ (s.openCal r).reply = s.reply := by
  unfold State.openCal; (try dsimp only) <;> (repeat' split) <;> simp

@[simp] theorem profileStep_frame (r : Record) (p : Profile) (q : Position) (lo hi : Bool) :
    (s.profileStep r p q lo hi).pending = s.pending ∧ (s.profileStep r p q lo hi).pins = s.pins
    ∧ (s.profileStep r p q lo hi).clock = s.clock ∧ (s.profileStep r p q lo hi).table = s.table
    ∧ (s.profileStep r p q lo hi).peers = s.peers ∧ (s.profileStep r p q lo hi).station = s.station
    ∧ (s.profileStep r p q lo hi).number = s.number ∧ (s.profileStep r p q lo hi).config = s.config
    ∧ (s.profileStep r p q lo hi).restrictions = s.restrictions
    ∧ (s.profileStep r p q lo hi).fault = s.fault ∧ (s.profileStep r p q lo hi).reply = s.reply := by
  unfold State.profileStep; (try dsimp only) <;> (repeat' split) <;> simp

@[simp] theorem cancelRecord_frame (r : Record) (m : CancelMode) :
    (s.cancelRecord r m).pending = s.pending ∧ (s.cancelRecord r m).pins = s.pins
    ∧ (s.cancelRecord r m).clock = s.clock ∧ (s.cancelRecord r m).table = s.table
    ∧ (s.cancelRecord r m).peers = s.peers ∧ (s.cancelRecord r m).station = s.station
    ∧ (s.cancelRecord r m).number = s.number ∧ (s.cancelRecord r m).config = s.config
    ∧ (s.cancelRecord r m).restrictions = s.restrictions ∧ (s.cancelRecord r m).fault = s.fault
    ∧ (s.cancelRecord r m).reply = s.reply := by
  unfold State.cancelRecord; (try dsimp only) <;> (repeat' split) <;> simp

@[simp] theorem widenFence_frame (f : Fence) :
    (s.widenFence f).pending = s.pending ∧ (s.widenFence f).free = s.free
    ∧ (s.widenFence f).pins = s.pins ∧ (s.widenFence f).clock = s.clock
    ∧ (s.widenFence f).table = s.table ∧ (s.widenFence f).seq = s.seq ∧ (s.widenFence f).drive = s.drive
    ∧ (s.widenFence f).burst = s.burst ∧ (s.widenFence f).store = s.store
    ∧ (s.widenFence f).heads = s.heads ∧ (s.widenFence f).search = s.search
    ∧ (s.widenFence f).peers = s.peers ∧ (s.widenFence f).station = s.station
    ∧ (s.widenFence f).number = s.number ∧ (s.widenFence f).config = s.config
    ∧ (s.widenFence f).fault = s.fault ∧ (s.widenFence f).reply = s.reply := by
  unfold State.widenFence; (try dsimp only) <;> (repeat' split) <;> simp

end State

end Sys2Proof.Machine
end

