-- ==== Sys2Proof/Laws/Control.lean ====
section
/-! SUPPORT. Station Control and the plan port: the checks of requests in the words of Safety, the fields of
payloads, the fault record, and the replies. -/

namespace Sys2Proof.Machine

/-- The reply in the words of Safety (R164). -/
theorem answer_eq (s : State) (k : Byte) (r : Result) (p : List Byte) : s.answer k r p = Replied s k r p :=
  rfl

/-- A request with RSTn high and a payload of its size is handled (R164). -/
theorem request_handled (s : State) (k : Byte) (p : List Byte) (n : Nat) (f : State → State)
    (h1 : s.pins.rstn = true) (h2 : p.length = n) : s.request k p n f = f s := by
  simp [State.request, h1, h2]

theorem request_badLength (s : State) (k : Byte) (p : List Byte) (n : Nat) (f : State → State)
    (h1 : s.pins.rstn = true) (h2 : p.length ≠ n) : s.request k p n f = Replied s k .badLength [] := by
  simp [State.request, h1, h2, answer_eq]

/-- The fault record after a cause is written (R170). -/
theorem writeFault_eq (f : FaultRecord) (c : FaultCause) (t : Time) : f.write c t = FaultWritten f c t := by
  simp only [FaultRecord.write, FaultWritten]
  cases f.cause <;> simp

theorem covers_iff (f : Fence) (zone : Nat) : f.covers zone = true ↔ Fenced f zone := by
  obtain ⟨side, extent⟩ := f
  cases side <;> simp [Fence.covers, Fenced]

theorem covers_false_iff (f : Fence) (zone : Nat) : f.covers zone = false ↔ ¬ Fenced f zone := by
  rw [← covers_iff, Bool.not_eq_true]

theorem fenceWidens_iff (held req : Fence) : fenceWidens held req = true ↔ Widening held req := by
  simp [fenceWidens, Widening, or_assoc]

theorem allowed_iff (c : Configuration) : c.allowed = true ↔ c.InRange := by
  simp only [Configuration.allowed, Configuration.InRange, Bool.and_eq_true, Bool.or_eq_true,
    decide_eq_true_eq, Bool.not_eq_true', Bool.and_eq_false_iff, decide_eq_false_iff_not, and_assoc,
    or_assoc]
  constructor
  · rintro ⟨h1, h2, h3, h4, h5, h6, h7, h8, h9, h10, h11, h12, h13, h14, h15, h16, h17, h18, h19, h20,
      h21, h22, h23, h24, h25⟩
    refine ⟨h1, h2, h3, h4, h5, h6, h7, h8, h9, h10, h11, h12, h13, h14, h15, h16, h17, h18, h19, h20,
      h21, h22, fun h => ?_, h24, h25⟩
    rcases h23 with h23 | h23
    · exact absurd h h23
    · simpa using h23
  · rintro ⟨h1, h2, h3, h4, h5, h6, h7, h8, h9, h10, h11, h12, h13, h14, h15, h16, h17, h18, h19, h20,
      h21, h22, h23, h24, h25⟩
    refine ⟨h1, h2, h3, h4, h5, h6, h7, h8, h9, h10, h11, h12, h13, h14, h15, h16, h17, h18, h19, h20,
      h21, h22, ?_, h24, h25⟩
    by_cases h : c.fence.side = .none
    · exact Or.inr (by simp [h23 h])
    · exact Or.inl h

/-- The configuration a request carries is the one its bytes were made from (Table 10-5). -/
theorem configurationOf_bytes (c : Configuration) (h : c.Fits) : configurationOf c.bytes = some c := by
  obtain ⟨b1, b2, b3, b4, b5, b6, b7, b8, b9, b10, b11, b12, b13, b14⟩ := h
  obtain ⟨c1, c2, c3, c4, c5, c6, c7, c8, c9, c10, c11, c12, c13, ⟨side, ext⟩⟩ := c
  simp only at b1 b2 b3 b4 b5 b6 b7 b8 b9 b10 b11 b12 b13 b14
  cases side <;>
    simp [configurationOf, Configuration.bytes, byte1, byte2, fenceCode, byteAt, wordAt, fenceSideOf] <;>
    omega

theorem configurationBytes_length (c : Configuration) : c.bytes.length = 19 := by
  simp [Configuration.bytes, byte1, byte2]

/-- The fields of a POST request are those its bytes were made from (Table 11-5). -/
theorem postRequest_bytes (tag head zone : Byte) (start : Time) (length : Nat) (h : length < 65536) :
    postRequest ([tag, head, zone] ++ timeBytes start ++ byte2 length)
      = { tag := tag, head := head.toNat, zone := zone.toNat, planStart := start.toNat, length := length } := by
  have := start.isLt
  simp [postRequest, timeBytes, byte1, byte2, byte3, byteAt, wordAt, tripleAt]
  omega

theorem calibrateRequest_bytes (c : Configuration) (tag head : Byte) (start : Time) :
    calibrateRequest c ([tag, head] ++ timeBytes start)
      = { tag := tag, head := head.toNat, zone := 0, planStart := start.toNat, length := c.calLength } := by
  have := start.isLt
  simp [calibrateRequest, timeBytes, byte1, byte2, byte3, byteAt, wordAt, tripleAt]
  omega

/-- The mode a CANCEL byte names (section 10.1). -/
theorem cancelModeOf_eq (mode : Byte) (h : mode = 0 ∨ mode = 1) :
    cancelModeOf mode.toNat = some (if mode = 0 then .immediate else .segmentEnd) := by
  rcases h with rfl | rfl <;> rfl

/-! Checks in order, row by row. -/

theorem firstOf_nil {α : Type} (v : α) : FirstOf ([] : List (Prop × α)) v ↔ False := by
  simp [FirstOf]

theorem firstOf_cons {α : Type} (c : Prop) (v w : α) (rows : List (Prop × α)) :
    FirstOf ((c, v) :: rows) w ↔ (c ∧ w = v) ∨ (¬ c ∧ FirstOf rows w) := by
  constructor
  · rintro ⟨pre, d, post, h, hd, hp⟩
    cases pre with
    | nil =>
      obtain ⟨h1, -⟩ := List.cons.inj h
      cases h1
      exact .inl ⟨hd, rfl⟩
    | cons x pre =>
      obtain ⟨h1, h2⟩ := List.cons.inj h
      subst h1
      exact .inr ⟨hp _ List.mem_cons_self, pre, d, post, h2, hd, fun y hy => hp y (List.mem_cons_of_mem _ hy)⟩
  · rintro (⟨h, rfl⟩ | ⟨h, pre, d, post, h2, hd, hp⟩)
    · exact ⟨[], c, rows, rfl, h, by simp⟩
    · exact ⟨(c, v) :: pre, d, post, by simp [h2], hd, by rintro x hx; rcases List.mem_cons.1 hx with rfl | hx; exacts [h, hp x hx]⟩

end Sys2Proof.Machine
end

