-- ==== Sys2Proof/Laws/Plans.lean ====
section
/-! SUPPORT. The records of the Plan Queue: finding one, finishing one and finishing several, claim numbers. -/

namespace Sys2Proof.Machine

theorem find_tag {q : PlanQueue} {t : Tag} {r : Record} (h : q.find t = some r) : r.tag = t := by
  have := List.find?_some h
  simpa using this

theorem find_mem {q : PlanQueue} {t : Tag} {r : Record} (h : q.find t = some r) : r ∈ q.records :=
  List.mem_of_find?_eq_some h

/-- In a list whose elements a relation keeps apart, the first element that satisfies a test is any element
that does, where two that do are never apart. -/
theorem find?_eq_of_pairwise {α : Type} {R : α → α → Prop} {l : List α} {f : α → Bool} {x : α}
    (h : l.Pairwise R) (hx : x ∈ l) (hf : f x = true)
    (hr : ∀ y, f y = true → ¬ R y x) : l.find? f = some x := by
  induction l with
  | nil => exact absurd hx List.not_mem_nil
  | cons y ys ih =>
    obtain ⟨h1, h2⟩ := List.pairwise_cons.1 h
    rcases List.mem_cons.1 hx with rfl | hx
    · simp [hf]
    · by_cases hy : f y = true
      · exact absurd (h1 x hx) (hr y hy)
      · rw [List.find?_cons_of_neg hy]
        exact ih h2 hx

/-- A record is the one its tag finds (R38). -/
theorem find_of_mem {s : State} (h : QueueSound s) {r : Record} (hr : r ∈ s.plans.records) :
    s.plans.find r.tag = some r :=
  find?_eq_of_pairwise h.2 hr (by simp) (fun y hy hR => hR.1 (by simpa using hy))

/-- A CLAIMING record is the one its claim number finds (R43). -/
theorem claiming_of_mem {s : State} (h : QueueSound s) {r : Record} (hr : r ∈ s.plans.records)
    (h1 : r.state = .claiming) : s.plans.claiming r.claim = some r := by
  refine find?_eq_of_pairwise h.2 hr (by simp [h1]) (fun y hy hR => ?_)
  simp only [Bool.and_eq_true, decide_eq_true_eq] at hy
  exact hR.2.2.1 (Or.inl (by simp [Record.live, hy.1])) (Or.inl (by simp [Record.live, h1])) hy.2

/-- A record as its finishing leaves it, in the words of Safety (R49). -/
theorem finish_eq_endedRecord (r : Record) (o : PlanOutcome) (x : Option Time) (report : Option Report)
    (cal : Option CalResult) (fault : Option Time) (now : Time) :
    r.finish { outcome := o, release := x, report := report, calResult := cal, faultStamp := fault } now
      = endedRecord r o now report cal fault x.isSome := rfl

/-- Finishing several records one after the other: each at its own tag, in finish order (R38, R49). -/
theorem finishAll_plans (s : State) (rs : List Record) (e : Record → Ending)
    (h : (rs.map Record.tag).Nodup) :
    (s.finishAll rs e).plans =
      { s.plans with
        records := s.plans.records.map (fun x =>
          match rs.find? (fun r => decide (r.tag = x.tag)) with
          | some r => x.finish (e r) s.now
          | none => x),
        finished := s.plans.finished ++ rs.map Record.tag } := by
  induction rs generalizing s with
  | nil => simp [State.finishAll]
  | cons r rs ih =>
    simp only [List.map_cons, List.nodup_cons] at h
    have hstep : s.finishAll (r :: rs) e = (s.finish r (e r)).finishAll rs e := rfl
    have hnow : (s.finish r (e r)).now = s.now := rfl
    rw [hstep, ih _ h.2, hnow]
    have hp : (s.finish r (e r)).plans = s.plans.finish r.tag (e r) s.now := rfl
    rw [hp]
    simp only [PlanQueue.finish, PlanQueue.update, List.map_map, List.map_cons, List.append_assoc,
      List.singleton_append]
    congr 1
    apply List.map_congr_left
    intro x _
    simp only [Function.comp_apply]
    by_cases hx : x.tag = r.tag
    · rw [if_pos hx]
      have hn : rs.find? (fun r' => decide (r'.tag = (x.finish (e r) s.now).tag)) = none := by
        rw [List.find?_eq_none]
        intro y hy hyt
        have hyt : y.tag = x.tag := of_decide_eq_true hyt
        exact h.1 (hx ▸ hyt ▸ List.mem_map_of_mem hy)
      rw [hn]
      simp [hx]
    · rw [if_neg hx, List.find?_cons_of_neg (by simpa using Ne.symm hx)]

/-- The claim number given to a new record is the lowest free one (R43). -/
theorem freeClaim_of_lowest {q : PlanQueue} {n : Nat} (h : LowestFree q.records n) (hn : n < 16) :
    q.freeClaim = n := by
  have hused : ∀ m, q.claimUsed m = true ↔ ∃ r ∈ q.records, ClaimHeld r ∧ r.claim = m := by
    intro m
    simp only [PlanQueue.claimUsed, List.any_eq_true, Bool.and_eq_true, decide_eq_true_eq,
      Bool.or_eq_true, ClaimHeld]
    constructor
    · rintro ⟨r, hr, h1, h2⟩; exact ⟨r, hr, h2, h1⟩
    · rintro ⟨r, hr, h1, h2⟩; exact ⟨r, hr, h2, h1⟩
  have hfree : q.claimUsed n = false := by
    rw [Bool.eq_false_iff, ne_eq, hused]
    rintro ⟨r, hr, h1, h2⟩
    exact h.1 r hr h1 h2
  have hlow : ∀ m < n, q.claimUsed m = true := fun m hm => (hused m).2 (h.2 m hm)
  have : (List.range 16).find? (fun m => !q.claimUsed m) = some n := by
    rw [List.find?_range_eq_some]
    refine ⟨by simp [hfree], by simpa using hn, fun m hm => by simp [hlow m hm]⟩
  simp [PlanQueue.freeClaim, this]

/-- With fewer than 16 records the lowest free claim number is below 16 (R43). -/
theorem lowestFree_lt {records : List Record} {n : Nat} (h : LowestFree records n)
    (hl : records.length < 16) : n < 16 := by
  by_contra hc
  have hsub : (List.range 16) ⊆ records.map Record.claim := by
    intro m hm
    obtain ⟨r, hr, _, h2⟩ := h.2 m (by have := List.mem_range.1 hm; omega)
    exact List.mem_map.2 ⟨r, hr, h2⟩
  have := (List.nodup_range.subperm hsub).length_le
  simp at this
  omega

end Sys2Proof.Machine
end

