-- ==== Sys2Proof/Laws/Sequencer.lean ====
section
/-! SUPPORT. The Burst Sequencer: the laser message that turns the laser off, the ending of the current plan,
and what an executing record gives. -/

namespace Sys2Proof.Machine

/-- Turning the laser off sends the one message of Safety's OffSent (R64). -/
theorem setLaser_off_sent (s : State) : OffSent s (s.setLaser .off) := by
  simp only [OffSent, State.setLaser]
  split
  · simp
  · exact ⟨_, rfl, rfl⟩

theorem setLaser_off_seq (s : State) : (s.setLaser .off).seq = { s.seq with laser := .off } := by
  simp only [State.setLaser]
  split
  · rename_i h; rw [← h]
  · rfl

/-- A new laser output: the output and its message, where it differs (R64). -/
theorem setLaser_on (s : State) (head code : Nat) :
    s.setLaser (.on head code) =
      { s with seq := { s.seq with laser := .on head code },
               drive := { s.drive with sent := s.drive.sent ++ DriveSent s head code } } := by
  simp only [State.setLaser, DriveSent]
  split
  · rename_i h; simp [← h]
  · rfl

/-- A new reference pair (R89, R120). -/
theorem setReferences_eq (s : State) (low high : Nat) :
    s.setReferences low high =
      { s with drive := { sent := s.drive.sent ++ PairSent s low high,
                          references := some (low, high) } } := by
  simp only [State.setReferences, PairSent]
  split
  · rename_i h; simp [← h]
  · rfl

/-- A burst that is not open leaves no correction (R95). -/
theorem noCorrection_none {s : State} (h : s.burst = none) : NoCorrection s none := by
  simp [NoCorrection, h]

/-- A report that brings no trim step and no marking leaves the state (R95). -/
theorem afterBurst_clean (u : State) (head : Nat) (report : Option Report)
    (h : ∀ x, report = some x → x.cls = .clean ∨ x.cls = .drift) : u.afterBurst head report = u := by
  cases hc : report with
  | none => simp [State.afterBurst]
  | some x => rcases h x hc with h3 | h3 <;> simp [State.afterBurst, h3]

/-- The ending of the current plan, and what its report brings (R78, R95, R96). -/
theorem endPlan_ends (s : State) (r : Record) (o : PlanOutcome) (fault : Option Time)
    (cal : Option CalResult) (hr : r.state ≠ .queued) :
    ∃ t, s.endPlan r o fault cal
        = t.afterBurst r.head (s.burst.map (fun b => b.report s.config.deviationThreshold))
      ∧ PlanEnded s r o fault (s.burst.map (fun b => b.report s.config.deviationThreshold)) cal t := by
  refine ⟨_, rfl, ?_, ?_, ?_⟩
  · simp [State.finish, Link.finishing, hr, Sequencer.idle, executedRelease, setLaser_off_seq,
      Link.enqueue]
    by_cases hb : timeBefore s.now r.windowEnd = true <;> simp [hb]
  · simp [State.finish, PlanQueue.finish, PlanQueue.update, Record.finish, executedRelease, endedRecord,
      State.now]
    intro x _
    by_cases hb : timeBefore s.clock.now r.windowEnd = true <;> simp [hb]
  · have := setLaser_off_sent s
    simpa [OffSent, State.finish] using this

/-- The ending of the current plan, where no trim step and no marking follows (R78). -/
theorem endPlan_planEnded (s : State) (r : Record) (o : PlanOutcome) (fault : Option Time)
    (report : Option Report) (cal : Option CalResult) (hr : r.state ≠ .queued)
    (h : NoCorrection s report) : PlanEnded s r o fault report cal (s.endPlan r o fault cal) := by
  obtain ⟨t, ht, he⟩ := endPlan_ends s r o fault cal hr
  rw [ht, ← h.1, afterBurst_clean t r.head report h.2]
  rwa [← h.1] at he

/-- A command that ends the current plan by `endPlan` ends it as EndsPlan says. -/
theorem endsPlan_of_endPlan {c : Instr} {s u : State} {r : Record} {o : PlanOutcome} {fault : Option Time}
    {report : Option Report} {cal : Option CalResult} (hr : r.state ≠ .queued)
    (hrep : report = u.burst.map (fun b => b.report u.config.deviationThreshold))
    (h : exec c s = .next (u.endPlan r o fault cal)) : EndsPlan c s u r o fault report cal := by
  obtain ⟨t, ht, he⟩ := endPlan_ends u r o fault cal hr
  rw [← hrep] at ht he
  refine ⟨t, by rw [h, ht], he, fun hx => ?_⟩
  rw [h, ht, afterBurst_clean t r.head report hx]

/-- A plan whose profile has no tail segments ends as it enters TAIL (R75, R76, R56). -/
theorem endsPlan_of_enterTail {c : Instr} {s u : State} {r : Record} {p : Profile} {ovr : Option Time}
    {report : Option Report} (hp : p.tail = [])
    (hrep : report = u.burst.map (fun b => b.report u.config.deviationThreshold))
    (h : exec c s = .next (u.enterTail r p ovr)) :
    EndsPlan c s u r
      (if ovr.isSome then .overrun else if r.cancel = some .segmentEnd then .cancelled else .done)
      ovr report none := by
  let cancel := if ovr.isSome then none else r.cancel
  let r' : Record := { r with state := .tail, cancel := cancel }
  let s1 := (u.updateRecord r.tag (fun x => { x with state := .tail, cancel := cancel })).monitorStops
  let s2 : State := { s1 with seq := { s1.seq with firstStep := false, overrun := ovr } }
  have hrep2 : report = s2.burst.map (fun b => b.report s2.config.deviationThreshold) := by
    rw [hrep]
    show _ = (u.burst.map (fun b => { b with sampling := false })).map _
    rw [Option.map_map]
    rfl
  have key : ∀ o, exec c s = .next (s2.endPlan r' o ovr) → EndsPlan c s u r o ovr report none := by
    intro o ho
    obtain ⟨t, ht, he, hx⟩ := endsPlan_of_endPlan (s := s) (by simp [r']) hrep2 ho
    refine ⟨t, ht, ⟨he.1, ?_, he.2.2⟩, hx⟩
    rw [he.2.1]
    show PlanQueue.mk _ _ _ = PlanQueue.mk _ _ _
    congr 1
    show List.map _ (List.map _ u.plans.records) = _
    rw [List.map_map]
    refine List.map_congr_left fun x _ => ?_
    have hnow : s2.now = u.now := rfl
    by_cases hx : x.tag = r.tag <;> simp [hx, r', endedRecord, hnow]
  have he : u.enterTail r p ovr = s2.endTail r' := by simp [State.enterTail, hp, s2, s1, r', cancel]
  rw [he] at h
  cases ho : ovr with
  | some stamp =>
    subst ho
    exact key _ h
  | none =>
    subst ho
    by_cases hc : r.cancel = some .segmentEnd
    · simp only [hc, if_true, Option.isSome_none, Bool.false_eq_true, if_false]
      apply key
      rw [h]; simp [State.endTail, s2, r', cancel, hc]
    · simp only [hc, Option.isSome_none, Bool.false_eq_true, if_false]
      apply key
      rw [h]; simp [State.endTail, s2, r', cancel, hc]

/-- The record of an executing plan, and that the station takes events. -/
theorem Executing.current {s : State} {r : Record} (h : Executing s r) : s.currentRecord = some r := by
  obtain ⟨_, _, h3, h4⟩ := h
  simp [State.currentRecord, h3, h4]

theorem Executing.takesEvents {s : State} {r : Record} (h : Executing s r) : s.takesEvents = true := by
  obtain ⟨h1, h2, _, _⟩ := h
  simp [State.takesEvents, h1, h2]

/-- A time that is reached needs no movement of the clock (R4). -/
theorem atTime_reached (s : State) (t : Time) (act : State → State) (h : timeBefore s.now t = false) :
    s.atTime t act = act s := by
  simp [State.atTime, State.clockTo, State.reached, h]

/-- Entry to HALTED (R85, R175). -/
theorem halt_eq (s : State) (c : FaultCause) (stamp : Time) :
    OffSent s (s.halt c stamp)
    ∧ s.halt c stamp = { s with
        station := .halted,
        seq := { s.seq with laser := .off, wfault := s.seq.wfault || s.pins.wgate },
        fault := FaultWritten s.fault c stamp, drive := (s.halt c stamp).drive,
        free := (s.halt c stamp).free } := by
  have hw : s.fault.write c stamp = FaultWritten s.fault c stamp := by
    simp only [FaultRecord.write, FaultWritten]; cases s.fault.cause <;> simp
  refine ⟨?_, ?_⟩
  · have := setLaser_off_sent s
    simpa [State.halt, OffSent] using this
  · simp [State.halt, State.writeFault, State.assertWfault, hw, setLaser_off_seq]

end Sys2Proof.Machine
end

