-- ==== Sys2Proof/Laws/Time.lean ====
section
/-! SUPPORT. Rotational time as numbers: what the modular difference and the comparisons say, so that a proof
about times ends in `omega`. -/

namespace Sys2Proof.Machine

/-- The modular difference through the numbers of its times, in the two halves of its range (R6). -/
theorem timeDiff_cases (a b : Time) :
    ((a.toNat + 1048576 - b.toNat) % 1048576 < 524288
      ∧ timeDiff a b = (((a.toNat + 1048576 - b.toNat) % 1048576 : Nat) : Int))
    ∨ (524288 ≤ (a.toNat + 1048576 - b.toNat) % 1048576
      ∧ timeDiff a b = (((a.toNat + 1048576 - b.toNat) % 1048576 : Nat) : Int) - 1048576) := by
  have ha := a.isLt
  have hb := b.isLt
  have h : (a - b).toNat = (a.toNat + 1048576 - b.toNat) % 1048576 := by rw [BitVec.toNat_sub]; omega
  simp only [timeDiff, BitVec.toInt_eq_toNat_cond, h]
  split <;> omega

theorem timeDiff_range (a b : Time) : -524288 ≤ timeDiff a b ∧ timeDiff a b ≤ 524287 := by
  have := timeDiff_cases a b
  omega

@[simp] theorem timeDiff_self (a : Time) : timeDiff a a = 0 := by simp [timeDiff]

theorem timeDiff_eq_zero (a b : Time) : timeDiff a b = 0 ↔ a = b := by
  have ha := a.isLt
  have hb := b.isLt
  have h := timeDiff_cases a b
  constructor
  · intro h0; apply BitVec.eq_of_toNat_eq; omega
  · rintro rfl; simp

/-- Differences add, where the sum is in range. -/
theorem timeDiff_add (a b c : Time) (h1 : -524288 ≤ timeDiff a b + timeDiff b c)
    (h2 : timeDiff a b + timeDiff b c ≤ 524287) : timeDiff a c = timeDiff a b + timeDiff b c := by
  have ha := a.isLt
  have hb := b.isLt
  have hc := c.isLt
  have x := timeDiff_cases a b
  have y := timeDiff_cases b c
  have z := timeDiff_cases a c
  omega

/-- A difference changes sign, but for the one value without an opposite. -/
theorem timeDiff_swap (a b : Time) (h : timeDiff a b ≠ -524288) : timeDiff b a = -timeDiff a b := by
  have ha := a.isLt
  have hb := b.isLt
  have x := timeDiff_cases a b
  have y := timeDiff_cases b a
  omega

/-- A difference to a time moved forward, where it is in range. -/
theorem timeDiff_timePlus (a b : Time) (d : Nat) (h1 : -524288 ≤ timeDiff a b - d)
    (h2 : timeDiff a b - d ≤ 524287) : timeDiff a (timePlus b d) = timeDiff a b - d := by
  have ha := a.isLt
  have hb := b.isLt
  have hp : (timePlus b d).toNat = (b.toNat + d) % 1048576 := by simp [timePlus]
  have x := timeDiff_cases a b
  have y := timeDiff_cases a (timePlus b d)
  omega

theorem timeBefore_iff (a b : Time) : timeBefore a b = true ↔ timeDiff a b < 0 := by simp [timeBefore]

theorem timeBefore_false_iff (a b : Time) : timeBefore a b = false ↔ 0 ≤ timeDiff a b := by
  simp [timeBefore]

theorem timeAfter_iff (a b : Time) : timeAfter a b = true ↔ 0 < timeDiff a b := by simp [timeAfter]

theorem timeAtOrBefore_iff (a b : Time) : timeAtOrBefore a b = true ↔ timeDiff a b ≤ 0 := by
  simp [timeAtOrBefore]

theorem windowContains_iff (ws we t : Time) :
    windowContains ws we t = true ↔ 0 ≤ timeDiff t ws ∧ timeDiff t we < 0 := by
  simp [windowContains, timeBefore]

theorem windowsOverlap_comm (ws we vs ve : Time) :
    windowsOverlap ws we vs ve = windowsOverlap vs ve ws we := by
  simp only [windowsOverlap]
  cases timeBefore ws ve <;> cases timeBefore vs we <;> cases timeAfter we ws <;> cases timeAfter ve vs
    <;> rfl

theorem timePlus_toNat (t : Time) (d : Nat) : (timePlus t d).toNat = (t.toNat + d) % 1048576 := by
  simp [timePlus]

theorem timeMinus_toNat (t : Time) (d : Nat) :
    (timeMinus t d).toNat = (t.toNat + (1048576 - d % 1048576)) % 1048576 := by
  have := t.isLt
  simp [timeMinus, BitVec.toNat_sub]; omega

/-- The purge and the release in the words of Safety (R20, Table 2-4). -/
theorem purge_eq (table : List Entry) (stamp : Time) : purge table stamp = Purged table stamp := by
  simp [purge, Purged, timeAfter]

theorem applyRelease_eq (table : List Entry) (n : Station) (number : Nat) (x : Time) :
    applyRelease table n number x = Released table n number x := by
  simp [applyRelease, Released, timeAtOrBefore, timeEarlier, timeBefore]

end Sys2Proof.Machine
end

