-- ==== Sys2Proof/Laws/Link.lean ====
section
/-! SUPPORT. The Share Link and the Peer Block in the words of Safety: eligible entries, the taking of frames,
triggers, and the loopback of a CLAIM. -/

namespace Sys2Proof.Machine

/-- Eligible is not held back, in JOINING and ACTIVE (Table 8-4). -/
theorem eligible_iff (s : State) (h : s.station = .joining ∨ s.station = .active) (e : TxEntry) :
    s.eligible e = true ↔ ¬ HeldBack s e := by
  have hl : ∀ ws, leadKept s.now ws = true ↔ ¬ timeDiff ws s.now < 512 := by
    intro ws
    simp only [leadKept, decide_eq_true_eq, not_lt]
    rfl
  rcases h with h | h <;> cases e <;> simp [State.eligible, h, HeldBack, hl, -not_lt]
  tauto

theorem mayStart_iff (s : State) (idle : Nat) : s.mayStart idle = true ↔ WaitEnded s idle := by
  simp only [State.mayStart, WaitEnded, Bool.and_eq_true, decide_eq_true_eq, and_assoc]
  rfl

/-- The first eligible entry of the transmit queue (R133). -/
theorem find_eligible {s : State} {pre post : List TxEntry} {e : TxEntry}
    (h : s.station = .joining ∨ s.station = .active) (hq : s.link.queue = pre ++ e :: post)
    (hpre : ∀ x ∈ pre, HeldBack s x) (he : ¬ HeldBack s e) :
    s.link.queue.find? s.eligible = some e ∧ s.link.queue.erase e = pre ++ post := by
  refine ⟨?_, ?_⟩
  · rw [hq, List.find?_append, List.find?_eq_none.2]
    · simp [(eligible_iff s h e).2 he]
    · intro x hx hx2
      exact (eligible_iff s h x).1 hx2 (hpre x hx)
  · rw [hq, List.erase_append_right]
    · simp
    · intro hh
      exact he (hpre e hh)

/-- A station that takes frames receives (R19, R136). -/
theorem TakingFrames.receives {s : State} (h : TakingFrames s) :
    s.receives = true ∧ s.takesFrames = true := by
  obtain ⟨h1, h2, h3, h4⟩ := h
  have : s.takesFrames = true := by simpa [State.takesFrames] using h2
  rcases h4 with h4 | h4 <;> simp [State.receives, h1, this, State.readsLine, h3, h4]

theorem adopt_closed {s : State} (h : AdoptionClosed s) (stamp : Time) (pulse : Bool) :
    s.adopt stamp pulse = s := by
  simp only [State.adopt]
  rcases h with h | ⟨h, h2 | h2⟩ <;> simp [*]

/-- A request of the station at the transmit queue (R139). -/
theorem enqueueRequest_eq (l : Link) (e : TxEntry) :
    l.enqueueRequest e = { l with queue := RequestQueued l.queue e } := by
  have h : (l.holds .join || l.holds .syncRequest)
      = l.queue.any (fun x => decide (x.key = .join) || decide (x.key = .syncRequest)) := by
    simp only [Link.holds]
    induction l.queue with
    | nil => rfl
    | cons x xs ih =>
      simp only [List.any_cons, ← ih, beq_eq_decide]
      cases decide (x.key = .join) <;> cases decide (x.key = .syncRequest) <;> simp
  simp only [Link.enqueueRequest, RequestQueued, h, Link.enqueue]
  split <;> rfl

/-- A trigger at a station (R153). -/
theorem desyncIf_eq (s : State) (trigger : Bool) : s.desyncIf trigger = Desynced s trigger := by
  simp only [State.desyncIf, Desynced, State.enterDesync, enqueueRequest_eq, Bool.and_eq_true,
    decide_eq_true_eq]

/-- An entry withdrawn unsent (R135). -/
theorem withdraw_eq (l : Link) (k : TxKey) : l.withdraw k = Unsent l k := by
  have h : (fun e : TxEntry => e.key != k) = (fun e => decide (e.key ≠ k)) := by
    funext e; by_cases he : e.key = k <;> simp [he]
  simp only [Link.withdraw, Unsent, h]
  split <;> simp_all

/-- A resynchronisation given up (R157). -/
theorem abandon_eq (s : State) : s.abandon = GivenUp s := by
  simp only [State.abandon, GivenUp, withdraw_eq, keepStation, clearAnnounced]

/-- A batch asked for (R141). -/
theorem requestBatch_eq (l : Link) : l.requestBatch = { l with queue := BatchRequested l.queue } := by
  have h : l.holds .announce = l.queue.any (fun e => decide (e.key = .announce)) := by
    simp only [Link.holds, beq_eq_decide]
  simp only [Link.requestBatch, BatchRequested, h, Link.enqueue]
  split <;> rfl

/-- No entry of a table bears a name. -/
theorem findEntry_none (table : List Entry) (n : Station) (number : Nat) :
    findEntry table n number = none ↔ ∀ e ∈ table, ¬(e.station = n ∧ e.number = number) := by
  simp [findEntry]

/-- A CLAIM without a protocol error is one within the limits (R21). -/
theorem claimError_iff (table : List Entry) (n : Station) (stamp : Time) (number kind : Byte)
    (ws we : Time) (level : Byte) :
    claimError (Purged table stamp) n stamp number kind ws we level = false ↔
      ClaimInLimits table n stamp number.toNat ws we level.toNat ∧ (kind = 0 ∨ kind = 1) := by
  have hk : (kindOfByte kind).isNone = false ↔ kind = 0 ∨ kind = 1 := by
    simp only [kindOfByte]
    split
    · simp [*]
    · split
      · simp [*]
      · exact iff_of_false (by simp) (by tauto)
  have hl : decide (level = 0) = false ↔ 1 ≤ level.toNat := by
    simp only [decide_eq_false_iff_not]
    constructor
    · intro h
      by_contra hc
      exact h (BitVec.eq_of_toNat_eq (by simp; omega))
    · rintro h rfl
      simp at h
  have hd : (timeBefore ws (timePlus stamp 512) = false ∧ timeAfter ws (timePlus stamp 8192) = false)
      ↔ 512 ≤ timeDiff ws stamp ∧ timeDiff ws stamp ≤ 8192 := by
    have h1 := ws.isLt
    have h2 := stamp.isLt
    have h3 := timePlus_toNat stamp 512
    have h4 := timePlus_toNat stamp 8192
    have c1 := timeDiff_cases ws stamp
    have c2 := timeDiff_cases ws (timePlus stamp 512)
    have c3 := timeDiff_cases ws (timePlus stamp 8192)
    rw [timeBefore_false_iff, ← Bool.not_eq_true, timeAfter_iff]
    omega
  have hf : (findEntry (Purged table stamp) n number.toNat).isSome = false
      ↔ ∀ e ∈ Purged table stamp, ¬(e.station = n ∧ e.number = number.toNat) := by
    rw [← findEntry_none]
    cases findEntry (Purged table stamp) n number.toNat <;> simp
  simp only [claimError, Bool.or_eq_false_iff, hf, hk, hl, ClaimInLimits, spanAllowed,
    Bool.not_eq_false', Bool.and_eq_true, decide_eq_true_eq, decide_eq_false_iff_not, Nat.not_lt]
  simp only [Config.minLead, Config.horizon, Config.maxSpan]
  constructor
  · rintro ⟨⟨⟨⟨⟨⟨a1, a2⟩, a3⟩, a4⟩, a5⟩, a6⟩, a7, a8⟩
    have := hd.1 ⟨a5, a6⟩
    exact ⟨⟨a2, a4, this.1, this.2, a7, a8, a1⟩, a3⟩
  · rintro ⟨⟨a2, a4, a5, a6, a7, a8, a1⟩, a3⟩
    have := hd.2 ⟨a5, a6⟩
    exact ⟨⟨⟨⟨⟨⟨a1, a2⟩, a3⟩, a4⟩, this.1⟩, this.2⟩, a7, a8⟩

/-- A CLAIM outside the limits is a protocol error and leaves the table (R21). -/
theorem admission_outside (table : List Entry) (bTotal : Nat) (n : Station) (stamp : Time)
    (number kind : Byte) (ws we : Time) (level : Byte)
    (h : ¬(ClaimInLimits table n stamp number.toNat ws we level.toNat ∧ (kind = 0 ∨ kind = 1))) :
    admission (Purged table stamp) bTotal n stamp number kind ws we level
      = (.protocolError, Purged table stamp) := by
  rw [← claimError_iff, Bool.not_eq_false] at h
  simp [admission, h]

/-- A CLAIM within the limits is admitted or denied by room and budget (R22). -/
theorem admission_within (table : List Entry) (bTotal : Nat) (n : Station) (stamp : Time)
    (number kind : Byte) (ws we : Time) (level : Byte)
    (h : ClaimInLimits table n stamp number.toNat ws we level.toNat ∧ (kind = 0 ∨ kind = 1)) :
    admission (Purged table stamp) bTotal n stamp number kind ws we level =
      if (Purged table stamp).length < 32 ∧ fitsBudget (Purged table stamp) bTotal ws we level.toNat = true
      then (.admitted, Purged table stamp ++
        [{ station := n, number := number.toNat, windowStart := ws, windowEnd := we,
           level := level.toNat, kind := if kind = 0 then .write else .cal, origin := .admitted }])
      else (.denied, Purged table stamp) := by
  have he := (claimError_iff table n stamp number kind ws we level).2 h
  have hk : (kindOfByte kind).getD .write = if kind = 0 then .write else .cal := by
    rcases h.2 with rfl | rfl <;> rfl
  simp only [admission, he, hk, Bool.and_eq_true, decide_eq_true_eq]
  rfl

/-- The frames of an ANNOUNCE batch of at most 9 claims (Table 8-5). -/
theorem batchFrames_flatten (claims : List Entry) : (batchFrames claims).flatten = claims := by
  simp only [batchFrames]
  split
  · simp
  · split
    · simp
    · simp only [List.flatten_cons, List.flatten_nil, List.append_nil]
      rw [show claims.drop 6 = (claims.drop 3).drop 3 by simp, List.take_append_drop,
        List.take_append_drop]

/-- The listing is a rearrangement of the table (R15). -/
theorem insertBy_perm {α : Type} (before : α → α → Bool) (x : α) (l : List α) :
    (insertBy before x l).Perm (x :: l) := by
  induction l with
  | nil => exact List.Perm.refl _
  | cons y ys ih =>
    simp only [insertBy]
    split
    · exact List.Perm.refl _
    · exact (List.Perm.cons y ih).trans (List.Perm.swap x y ys)

theorem sortBy_perm {α : Type} (before : α → α → Bool) (l : List α) : (sortBy before l).Perm l := by
  induction l with
  | nil => exact List.Perm.refl _
  | cons x xs ih => exact (insertBy_perm _ x _).trans (List.Perm.cons x ih)

end Sys2Proof.Machine
end

