-- ==== Sys2Proof/Laws/Endings.lean ====
section
/-! SUPPORT. Endings of several records in one action, and what follows the report of a burst, in the words of
Safety: GroupEnded and AfterReport. -/

namespace Sys2Proof.Machine

/-- The transmit queue keys that QUEUED records of a list leave behind: their CLAIMs (R49, point 6). -/
def claimsOf (rs : List Record) (k : TxKey) : Bool :=
  rs.any (fun r => decide (r.state = .queued) && decide (k = .claim r.claim))

/-- A link from which entries have left unsent and RELEASEs have joined (R49, R135). -/
def unsentAll (l : Link) (gone : TxKey → Bool) (releases : List TxEntry) : Link :=
  { l with queue := l.queue.filter (fun e => !gone e.key) ++ releases,
           collisions := if l.collided.any gone then 0 else l.collisions,
           collided := if l.collided.any gone then none else l.collided }

/-- The link after several QUEUED and GRANTED records have finished with one outcome (R49, R135). -/
theorem finishAll_link (s : State) (rs : List Record) (o : PlanOutcome)
    (h : ∀ r ∈ rs, r.state = .queued ∨ r.state = .granted) :
    (s.finishAll rs (fun r =>
      { outcome := o, release := if r.state = .granted then some r.windowStart else none })).link =
      unsentAll s.link (claimsOf rs) ((rs.filter (fun r => decide (r.state = .granted))).map
            (fun r => TxEntry.release r.claim r.windowStart)) := by
  induction rs generalizing s with
  | nil =>
    have h0 : claimsOf [] = fun _ => false := rfl
    have h1 : s.link.collided.any (fun _ => false) = false := by cases s.link.collided <;> rfl
    simp [State.finishAll, unsentAll, h0, h1]
  | cons r rs ih =>
    have hstep : ∀ e, s.finishAll (r :: rs) e = (s.finish r (e r)).finishAll rs e := fun _ => rfl
    rw [hstep, ih _ (fun x hx => h x (List.mem_cons_of_mem _ hx))]
    have hl : ∀ e, (s.finish r e).link = s.link.finishing r e.release := fun _ => rfl
    rw [hl]
    rcases h r List.mem_cons_self with h1 | h1
    · have hc : claimsOf (r :: rs) = fun k => decide (k = .claim r.claim) || claimsOf rs k := by
        funext k; simp [claimsOf, h1]
      have hg : (r :: rs).filter (fun r => decide (r.state = .granted))
          = rs.filter (fun r => decide (r.state = .granted)) := by simp [h1]
      have hf : ∀ q : List TxEntry, (q.filter (fun e => decide (e.key ≠ .claim r.claim))).filter
            (fun e => !claimsOf rs e.key)
          = q.filter (fun e => !(decide (e.key = .claim r.claim) || claimsOf rs e.key)) := by
        intro q
        rw [List.filter_filter]
        apply List.filter_congr
        intro e _
        cases claimsOf rs e.key <;> by_cases hk : e.key = .claim r.claim <;> simp [hk]
      simp only [Link.finishing, h1, withdraw_eq, Unsent, unsentAll, hc, hg, hf, reduceIte, reduceCtorEq]
      congr 1
      · cases hco : s.link.collided with
        | none => simp
        | some k => by_cases hk : k = .claim r.claim <;> simp [hk]
      · cases hco : s.link.collided with
        | none => simp
        | some k => by_cases hk : k = .claim r.claim <;> simp [hk]
    · have hc : claimsOf (r :: rs) = claimsOf rs := by
        funext k; simp [claimsOf, h1]
      have hr : claimsOf rs (TxEntry.release r.claim r.windowStart).key = false := by
        simp [claimsOf, TxEntry.key]
      have hg : (r :: rs).filter (fun r => decide (r.state = .granted))
          = r :: rs.filter (fun r => decide (r.state = .granted)) := by simp [h1]
      simp only [Link.finishing, h1, Link.enqueue, unsentAll, hc, hg, reduceIte, reduceCtorEq]
      simp [hr]

/-- Finishing the QUEUED and GRANTED records that satisfy a test (R49, R59, R86). -/
theorem finishAll_groupEnded (s : State) (o : PlanOutcome) (hit : Record → Bool) (hq : QueueSound s)
    (h : ∀ r, hit r = true → r.state = .queued ∨ r.state = .granted) :
    s.finishAll (s.plans.records.filter hit) (fun r =>
      { outcome := o, release := if r.state = .granted then some r.windowStart else none })
      = GroupEnded s o hit := by
  have hnd : (s.plans.records.map Record.tag).Nodup :=
    List.pairwise_map.2 (hq.2.imp (fun h => h.1))
  have hnd' : ((s.plans.records.filter hit).map Record.tag).Nodup :=
    (List.filter_sublist.map _).nodup hnd
  have hp := finishAll_plans s (s.plans.records.filter hit) (fun r =>
      { outcome := o, release := if r.state = .granted then some r.windowStart else none }) hnd'
  have hl := finishAll_link s (s.plans.records.filter hit) o
    (fun r hr => h r (List.mem_filter.1 hr).2)
  have hrest : ∀ (rs : List Record) (e) (u : State), u.finishAll rs e =
      { u with plans := (u.finishAll rs e).plans, link := (u.finishAll rs e).link } := by
    intro rs e
    induction rs with
    | nil => intro u; rfl
    | cons r rs ih =>
      intro u
      have hstep : u.finishAll (r :: rs) e = (u.finish r (e r)).finishAll rs e := rfl
      rw [hstep, ih]
      rfl
  rw [hrest, hp, hl]
  simp only [GroupEnded, unsentAll, claimsOf]
  congr 1
  congr 1
  apply List.map_congr_left
  intro x hx
  by_cases hh : hit x = true
  · have hf : (s.plans.records.filter hit).find? (fun r => decide (r.tag = x.tag)) = some x := by
      refine find?_eq_of_pairwise (R := RecordsAgree) (hq.2.sublist List.filter_sublist)
        (List.mem_filter.2 ⟨hx, hh⟩) (by simp) (fun y hy hR => hR.1 (by simpa using hy))
    rw [hf, if_pos hh]
    simp only [finish_eq_endedRecord]
    congr 1
    rcases h x hh with h1 | h1 <;> simp [h1]
  · have hf : (s.plans.records.filter hit).find? (fun r => decide (r.tag = x.tag)) = none := by
      rw [List.find?_eq_none]
      intro y hy hyt
      have hyt : y.tag = x.tag := of_decide_eq_true hyt
      obtain ⟨hy1, hy2⟩ := List.mem_filter.1 hy
      have e1 := find_of_mem hq hy1
      have e2 := find_of_mem hq hx
      rw [hyt, e2] at e1
      cases Option.some.inj e1
      exact hh hy2
    rw [hf, if_neg hh]

/-- The records of a head's marking are those of Safety's test (R86). -/
theorem suspectSiblings_eq (records : List Record) (head : Nat) :
    suspectSiblings records head = records.filter (Siblings head) := rfl

/-- A free choice of the moment of a swap changes the store and the index of free values alone (log 12). -/
theorem swapBeforeEndings_frame (s : State) :
    s.swapBeforeEndings = { s with store := s.swapBeforeEndings.store, free := s.swapBeforeEndings.free } := by
  simp only [State.swapBeforeEndings]
  split
  · split <;> rfl
  · rfl

/-- A SUSPECT marking (R86, R108, R126). -/
theorem markSuspect_eq (s : State) (head : Nat) (h : HeadRecord) (hq : QueueSound s)
    (hh : s.heads[head]? = some h) :
    s.markSuspect head = GroupEnded
      { s.swapBeforeEndings with heads := s.heads.set head { h with state := .suspect } }
      .headSuspect (Siblings head) := by
  have hr : s.headRecord head = h := by simp [State.headRecord, List.getD, hh]
  have hsib : ∀ u : State, QueueSound u →
      u.finishAll (suspectSiblings u.plans.records head) suspectEnding
        = GroupEnded u .headSuspect (Siblings head) := fun u hu => by
    rw [← finishAll_groupEnded _ _ _ hu (fun r hr => by
      simp only [Siblings, Bool.and_eq_true, Bool.or_eq_true, decide_eq_true_eq] at hr; exact hr.2)]
    rfl
  have he : s.swapBeforeEndings.heads = s.heads := by rw [swapBeforeEndings_frame]
  have hp : s.swapBeforeEndings.plans = s.plans := by rw [swapBeforeEndings_frame]
  have hr' : s.swapBeforeEndings.headRecord head = h := by rw [← hr]; simp [State.headRecord]
  simp only [State.markSuspect]
  rw [hsib]
  · simp [State.setHeadRecord, hr']
  · simpa [QueueSound, State.setHeadRecord, hp] using hq

theorem swapBeforeEndings_none (s : State) (hs : s.store.standbyBank.state ≠ .swapPending) :
    s.swapBeforeEndings = s := by
  simp [State.swapBeforeEndings, ProfileStore.swapPending, hs]

/-- Where a swap is due, it is resolved before the endings or it stays pending, and one free value is drawn
(R108, log 12). -/
theorem swapBeforeEndings_due (s : State) (hs : SwapDue s) :
    ∃ v, (v = s ∨ exec .swapResolution s = .next v)
      ∧ s.swapBeforeEndings = { v with free := s.free + 1 } := by
  obtain ⟨h1, h2, h3, h4⟩ := hs
  have hx : exec .swapResolution s = .next { s with store := s.store.resolveSwap s.plans.records } := by
    simp [exec, execSwapResolution, State.resolvePendingSwap, State.resolveDueSwap, State.swapDue,
      State.takesEvents, ProfileStore.swapPending, *]
  by_cases hc : Config.swapFirst s.free = true
  · exact ⟨_, .inr hx, by simp [State.swapBeforeEndings, ProfileStore.swapPending, h3, hc]⟩
  · exact ⟨_, .inl rfl, by simp [State.swapBeforeEndings, ProfileStore.swapPending, h3, hc]⟩

theorem afterBurst_none (s : State) (head : Nat) : s.afterBurst head none = s := rfl

/-- A report that does not make its head SUSPECT: one trim step, or nothing (R95). -/
theorem afterBurst_trusted (s : State) (head : Nat) (h : HeadRecord) (m : Report)
    (hh : s.heads[head]? = some h) (hd : ¬ Distrusts s h m) :
    s.afterBurst head (some m) = { s with heads := s.heads.set head (HeadAfter s h m false) } := by
  have hr : s.headRecord head = h := by simp [State.headRecord, List.getD, hh]
  have hset : s.heads.set head h = s.heads := by
    obtain ⟨hl, rfl⟩ := List.getElem?_eq_some_iff.1 hh
    exact List.set_getElem_self hl
  simp only [Distrusts, not_or, not_and] at hd
  obtain ⟨hd1, hd2⟩ := hd
  simp only [State.afterBurst, HeadAfter]
  cases hc : m.cls with
  | loss => exact absurd hc hd1
  | clean => simp [hset]
  | drift => simp [hset]
  | marginal =>
    by_cases ht : s.restrictions.trim = true
    · simp [State.trimStep, ht, hset]
    · rw [Bool.not_eq_true] at ht
      by_cases he : m.low = m.high
      · simp [State.trimStep, ht, he, AskedTrim, hset]
      · have hd3 := hd2 hc ht he
        have ha : AskedTrim h.trim m = wantedTrim h.trim m := by
          simp only [AskedTrim, wantedTrim]; split <;> [rfl; (split <;> [rfl; omega])]
        have hn : ¬(31 < wantedTrim h.trim m ∨ wantedTrim h.trim m < -31) := by
          rw [← ha]; tauto
        simp [State.trimStep, ht, he, hr, hn, State.setHeadRecord, ha]

/-- A report that makes its head SUSPECT is followed by the marking (R95, R96). -/
theorem afterBurst_distrusted (s : State) (head : Nat) (h : HeadRecord) (m : Report)
    (hh : s.heads[head]? = some h) (hd : Distrusts s h m) :
    s.afterBurst head (some m) = s.markSuspect head := by
  have hr : s.headRecord head = h := by simp [State.headRecord, List.getD, hh]
  rcases hd with hd | ⟨hc, ht, he, hd⟩
  · simp [State.afterBurst, hd]
  · have ha : AskedTrim h.trim m = wantedTrim h.trim m := by
      simp only [AskedTrim, wantedTrim]; split <;> [rfl; (split <;> [rfl; omega])]
    have hn : 31 < wantedTrim h.trim m ∨ wantedTrim h.trim m < -31 := by
      rw [← ha]; tauto
    simp [State.afterBurst, hc, State.trimStep, ht, he, hr, hn]

/-- What follows the report of a burst (R86, R95, R96), where no swap is pending or the head stays trusted. -/
theorem afterBurst_eq (s : State) (head : Nat) (h : HeadRecord) (m : Report) (suspect : Bool)
    (hq : QueueSound s) (hh : s.heads[head]? = some h) (hd : suspect = true ↔ Distrusts s h m)
    (hs : suspect = false ∨ s.store.standbyBank.state ≠ .swapPending) :
    s.afterBurst head (some m) = AfterReport s head h m suspect := by
  cases suspect with
  | false => rw [afterBurst_trusted s head h m hh (fun x => by simpa using hd.2 x)]; simp [AfterReport]
  | true =>
    have hs : s.store.standbyBank.state ≠ .swapPending := by simpa using hs
    rw [afterBurst_distrusted s head h m hh (hd.1 rfl), markSuspect_eq s head h hq hh,
      swapBeforeEndings_none s hs]
    simp [AfterReport, HeadAfter]

end Sys2Proof.Machine
end

