-- ==== Sys2Proof/Laws/Events.lean ====
section
/-! SUPPORT. The events of the clock in the words of Safety: the outstanding ones are those of ClockEvent, a swap
is due as SwapDue says, a window opens in its turn as OpensInTurn says; and what the earliest of a list is. -/

namespace Sys2Proof.Machine

theorem swapDue_iff (s : State) : s.swapDue = true ↔ SwapDue s := by
  simp [State.swapDue, SwapDue, State.takesEvents, ProfileStore.swapPending, Option.isNone_iff_eq_none, and_assoc]

theorem opensFirst_iff (s : State) (t : Time) : s.opensFirst t = true ↔ OpensInTurn s t := by
  simp only [State.opensFirst, OpensInTurn, List.all_eq_true, State.openingOf]
  refine forall_congr' fun r => forall_congr' fun _ => ?_
  cases hs : r.state <;> cases hk : r.kind <;> cases hp : s.store.activeBank.profile r.zone <;> simp

theorem mem_planEvents (s : State) (t : Time) (c : Instr) : (t, c) ∈ s.planEvents ↔
   (∃ tag r, s.seq.current = some tag ∧ s.plans.find tag = some r ∧
          ((∃ p, s.seq.profile = some p
              ∧ (r.state = .preheat ∨ r.state = .ready ∨ r.state = .paused .preheat
                ∨ r.state = .paused .ready)
              ∧ c = .writeStartDeadline
              ∧ t = timeEarlier (timePlus r.planStart s.config.lateTol)
                  (timeMinus r.windowEnd p.tailAllowance))
            ∨ (∃ p, s.seq.profile = some p ∧ (r.state = .writing ∨ r.state = .paused .writing)
              ∧ c = .writeDeadline ∧ t = timeMinus r.windowEnd p.tailAllowance)
            ∨ (r.state = .tail ∧ c = .windowEndReached ∧ t = r.windowEnd)
            ∨ (∃ x, s.search = some x ∧ r.state = .calibrating
              ∧ c = .calibrationStepEnd s.pins.monlo s.pins.monhi
              ∧ t = timePlus r.windowStart (x.step * (s.config.calLength / 20))))) := by
  simp only [State.planEvents, State.currentRecord]
  cases hc : s.seq.current with
  | none => simp
  | some tag =>
    cases hf : s.plans.find tag with
    | none => simp [hf]
    | some r =>
      simp only [Option.bind_some, hf]
      cases hp : s.seq.profile <;> cases hx : s.search <;> cases hs : r.state with
      | paused m => cases m <;> simp [writeStartDeadlineOf, writeDeadlineOf, and_comm, hs, hf]
      | _ => simp [writeStartDeadlineOf, writeDeadlineOf, calStepEndOf, calStepLength, and_comm, hs, hf]

theorem mem_recordEvents (s : State) (r : Record) (t : Time) (c : Instr) : (t, c) ∈ s.recordEvents r ↔
    (r.state = .queued ∧ c = .transmitDeadline r.tag ∧ t = timeMinus r.windowStart 512)
    ∨ (s.seq.current = none ∧ r.state = .granted ∧
      ((∃ p, r.kind = .write ∧ s.store.activeBank.profile r.zone = some p
              ∧ c = .writeWindowOpens r.tag s.pins.railAlert ∧ t = timeMinus r.planStart p.lead)
            ∨ (r.kind = .cal ∧ c = .calWindowOpens r.tag s.pins.railAlert ∧ t = r.windowStart))) := by
  simp only [State.recordEvents, State.openingOf]
  cases hk : r.kind <;> cases hc : s.seq.current <;> cases hs : r.state with
    | _ => cases hp : s.store.activeBank.profile r.zone <;> simp [transmitDeadlineOf, Config.minLead, and_comm]

/-- The earliest event of a list is one of its events. -/
theorem earliest_mem {es : List (Time × Instr)} {e : Time × Instr} (h : earliest es = some e) : e ∈ es := by
  induction es generalizing e with
  | nil => cases h
  | cons x xs ih =>
    simp only [earliest] at h
    split at h
    · cases h; exact List.mem_cons_self
    · rename_i f hf
      split at h <;> cases h
      · exact List.mem_cons_of_mem _ (ih hf)
      · exact List.mem_cons_self

theorem earliest_eq_none_iff {es : List (Time × Instr)} : earliest es = none ↔ es = [] := by
  cases es with
  | nil => simp [earliest]
  | cons x xs =>
    simp only [earliest]
    split
    · simp
    · split <;> simp

/-- Among events that the clock has reached, none lies before the earliest (R4, R6). -/
theorem earliest_least {now : Time} {es : List (Time × Instr)} {e : Time × Instr} (h : earliest es = some e)
    (reached : ∀ x ∈ es, 0 ≤ timeDiff now x.1) : ∀ x ∈ es, timeBefore x.1 e.1 = false := by
  induction es generalizing e with
  | nil => cases h
  | cons x xs ih =>
    have hx := reached x List.mem_cons_self
    have hxs := fun y hy => reached y (List.mem_cons_of_mem _ hy)
    simp only [earliest] at h
    split at h
    · rename_i h0
      cases h
      rw [earliest_eq_none_iff] at h0
      subst h0
      simp [timeBefore]
    · rename_i f hf
      have least := ih hf hxs
      have hf' := hxs f (earliest_mem hf)
      split at h <;> cases h
      · rename_i hb
        rintro y (_ | ⟨_, hy⟩)
        · have a := timeDiff_cases x.1 e.1
          have b := timeDiff_cases e.1 x.1
          rw [timeBefore_iff] at hb
          rw [timeBefore_false_iff]
          have c := timeDiff_cases now x.1
          have d := timeDiff_cases now e.1
          omega
        · exact least y hy
      · rename_i hb
        rintro y (_ | ⟨_, hy⟩)
        · simp [timeBefore]
        · have l := least y hy
          have hy' := hxs y hy
          rw [Bool.not_eq_true, timeBefore_false_iff] at hb
          rw [timeBefore_false_iff] at l ⊢
          have a := timeDiff_cases y.1 f.1
          have b := timeDiff_cases f.1 x.1
          have c := timeDiff_cases y.1 x.1
          have d := timeDiff_cases now x.1
          have e := timeDiff_cases now f.1
          have g := timeDiff_cases now y.1
          omega

theorem mem_timeEvents (s : State) (t : Time) (c : Instr) : (t, c) ∈ s.timeEvents ↔ ClockEvent s t c := by
  have h1 : (s.takesEvents = true) ↔ (s.pins.rstn = true ∧ s.station ≠ .halted) := by simp [State.takesEvents]
  have h2 : (s.clock.running = true) ↔ (s.clock.valid = true ∧ s.clock.hold = false) := by simp [Clock.running]
  simp only [State.timeEvents, List.mem_append, ClockEvent]
  refine or_congr ?_ ?_
  · by_cases h : s.takesEvents = true
    · have h' := h1.1 h
      simp only [h, if_true, List.mem_append, List.mem_flatMap, mem_planEvents, mem_recordEvents, h'.1, true_and, ne_eq, h'.2, not_false_eq_true]
      constructor
      · rintro (h | ⟨r, hr, h | h⟩)
        · exact .inr (.inr h)
        · exact .inl ⟨r, hr, h⟩
        · exact .inr (.inl ⟨h.1, r, hr, h.2⟩)
      · rintro (⟨r, hr, h⟩ | ⟨h0, r, hr, h⟩ | h)
        · exact .inr ⟨r, hr, .inl h⟩
        · exact .inr ⟨r, hr, .inr ⟨h0, h⟩⟩
        · exact .inl h
    · simp only [h]
      constructor
      · intro h'; simp at h'
      · rintro ⟨a, b, _⟩; exact absurd (h1.2 ⟨a, b⟩) h
  · by_cases h : s.clock.running = true
    · have h' := h2.1 h
      simp [h, h'.1, h'.2, Clock.holdTime, and_comm]
    · simp only [h]
      constructor
      · intro h'; simp at h'
      · rintro ⟨a, b, _⟩; exact absurd (h2.2 ⟨a, b⟩) h

end Sys2Proof.Machine
end

