-- ==== Sys2Proof/Laws/Line.lean ====
section
/-! SUPPORT. The Share Link at its bits: what the sampling of a bit time, a completed byte, the idle line and one
bit time of the line can change. -/

namespace Sys2Proof.Machine

/-- The byte that ends a frame, in the words of Safety (log 38). -/
theorem endsFrame_iff (l : Link) (x : Byte) : l.endsFrame x = true ↔ EndsFrame l x := by
  simp only [Link.endsFrame, EndsFrame, byteAt, Bool.and_eq_true, Bool.or_eq_true, decide_eq_true_eq, ne_eq]
  by_cases h : l.receiver = .receiving <;> simp [h]

/-- One bit time sampled changes the level kept, the byte in progress and the idle count alone (R128). -/
theorem sample_frame (l : Link) (b : Bool) :
    (l.sample b).1 = { l with lineHigh := (l.sample b).1.lineHigh, byteBits := (l.sample b).1.byteBits,
                              idleCount := (l.sample b).1.idleCount } := by
  simp only [Link.sample]; split
  · split
    · rfl
    · split <;> rfl
  · split <;> rfl

theorem sampleAll_frame (bs : List Bool) : ∀ (l : Link),
    (l.sampleAll bs).1 = { l with lineHigh := (l.sampleAll bs).1.lineHigh,
                                  byteBits := (l.sampleAll bs).1.byteBits,
                                  idleCount := (l.sampleAll bs).1.idleCount } := by
  induction bs with
  | nil => intro l; rfl
  | cons b bs ih => intro l; simp only [Link.sampleAll]; rw [ih, sample_frame]

/-- What the idle line brings queues commands and ends the frame assembled, and no more (R132, R137). -/
theorem lineIdle_frame (s : State) :
    s.lineIdle = { s with pending := s.lineIdle.pending,
                          link := { s.link with assembly := s.lineIdle.link.assembly } } := by
  simp only [State.lineIdle]
  split <;> split <;> (try (split <;> try split)) <;> rfl

/-- A completed byte changes the queue of commands, the frame assembled and the receiver alone (R136). -/
theorem receiveByte_frame (s : State) (b : RxByte) (pulse : Bool) :
    s.receiveByte b pulse =
      { s with pending := (s.receiveByte b pulse).pending,
               link := { s.link with assembly := (s.receiveByte b pulse).link.assembly,
                                     receiver := (s.receiveByte b pulse).link.receiver } } := by
  simp only [State.receiveByte]
  split <;> rfl

/-- What one bit time of the line can change: the queue of commands and the items of the line that the Link
Controller holds; the transmit queue, the frame in progress and every other block stay (R128, R134, R136). -/
theorem lineBit_frame (s : State) (level pulse : Bool) :
    s.lineBit level pulse =
      { s with
        pending := (s.lineBit level pulse).pending,
        link := { s.link with
          bit := (s.lineBit level pulse).link.bit, receiver := (s.lineBit level pulse).link.receiver,
          assembly := (s.lineBit level pulse).link.assembly,
          byteBits := (s.lineBit level pulse).link.byteBits,
          lineHigh := (s.lineBit level pulse).link.lineHigh,
          idleCount := (s.lineBit level pulse).link.idleCount,
          postSend := (s.lineBit level pulse).link.postSend } } := by
  simp only [State.lineBit]
  split
  · split
    · simp only [State.readBack]
      split
      · split <;> rfl
      · simp only [State.queueCommands]; congr 1; rw [sampleAll_frame]
    · simp only [State.receiveBit]
      have h0 := sample_frame { s.link with postSend := s.link.postSend && level } level
      generalize ({ s.link with postSend := s.link.postSend && level } : Link).sample level = x at h0 ⊢
      obtain ⟨l, o⟩ := x
      simp only at h0 ⊢
      split
      · rw [receiveByte_frame]; simp only; rw [h0]
      · split
        · rw [lineIdle_frame]; simp only; rw [h0]
        · split
          · simp only; rw [h0]
          · simp only; rw [h0]
      · split
        · rw [lineIdle_frame]; simp only; rw [h0]
        · simp only; rw [h0]
  · rfl

end Sys2Proof.Machine
end

