-- ==== Sys2Proof/Laws/Memory.lean ====
section
/-! SUPPORT. The sample memory: its one write keeps the canonical form, and what a read gives after it. -/

namespace Sys2Proof.Machine

/-- A head of a canonical memory: its byte is listed for a reason, the rest is canonical and lies above. -/
theorem Memory.wf_cons (k : Nat) (v : Byte) (m : Memory) :
    Memory.wf ((k, v) :: m) = true ↔ v ≠ erasedByte ∧ Memory.wf m = true ∧ ∀ c ∈ m, k < c.1 := by
  induction m generalizing k v with
  | nil => simp [Memory.wf]
  | cons c m ih =>
    obtain ⟨k', v'⟩ := c
    have h := ih k' v'
    simp only [Memory.wf, Bool.and_eq_true, decide_eq_true_eq, bne_iff_ne, ne_eq]
    constructor
    · rintro ⟨⟨h1, h2⟩, h3⟩
      refine ⟨h2, h3, ?_⟩
      intro c hc
      rcases List.mem_cons.1 hc with rfl | hc
      · exact h1
      · exact Nat.lt_trans h1 ((h.1 h3).2.2 c hc)
    · rintro ⟨h2, h3, h4⟩
      exact ⟨⟨h4 _ List.mem_cons_self, h2⟩, h3⟩

/-- The indexes a write leaves listed are the old ones and the one written. -/
theorem Memory.mem_write (m : Memory) (a : Nat) (v : Byte) (c : Host.Cell) (h : c ∈ Memory.write m a v) :
    c ∈ m ∨ c.1 = a := by
  induction m with
  | nil =>
    simp only [Memory.write] at h
    split at h
    · exact absurd h List.not_mem_nil
    · right; rw [List.mem_singleton.1 h]
  | cons d m ih =>
    obtain ⟨k, w⟩ := d
    simp only [Memory.write] at h
    split at h
    · split at h
      · exact Or.inl h
      · rcases List.mem_cons.1 h with rfl | h
        · exact Or.inr rfl
        · exact Or.inl h
    · split at h
      · split at h
        · exact Or.inl (List.mem_cons_of_mem _ h)
        · rcases List.mem_cons.1 h with rfl | h
          · exact Or.inr rfl
          · exact Or.inl (List.mem_cons_of_mem _ h)
      · rcases List.mem_cons.1 h with rfl | h
        · exact Or.inl List.mem_cons_self
        · rcases ih h with h | h
          · exact Or.inl (List.mem_cons_of_mem _ h)
          · exact Or.inr h

/-- A write keeps the canonical form. -/
theorem Memory.wf_write (m : Memory) (a : Nat) (v : Byte) (h : Memory.wf m = true) :
    Memory.wf (Memory.write m a v) = true := by
  induction m with
  | nil =>
    simp only [Memory.write]
    split
    · rfl
    · rename_i hv; simp [Memory.wf, hv]
  | cons d m ih =>
    obtain ⟨k, w⟩ := d
    have hd := (Memory.wf_cons k w m).1 h
    simp only [Memory.write]
    split
    · rename_i hlt
      split
      · exact h
      · rename_i hv
        refine (Memory.wf_cons a v _).2 ⟨hv, h, ?_⟩
        intro c hc
        rcases List.mem_cons.1 hc with rfl | hc
        · exact hlt
        · exact Nat.lt_trans hlt (hd.2.2 c hc)
    · rename_i hnl
      split
      · rename_i heq
        subst heq
        split
        · exact hd.2.1
        · rename_i hv
          exact (Memory.wf_cons a v m).2 ⟨hv, hd.2.1, hd.2.2⟩
      · rename_i hne
        refine (Memory.wf_cons k w _).2 ⟨hd.1, ih hd.2.1, ?_⟩
        intro c hc
        rcases Memory.mem_write m a v c hc with hc | hc
        · exact hd.2.2 c hc
        · omega

/-- An index below every listed one reads as erased. -/
theorem Memory.read_below (m : Memory) (a : Nat) (h : ∀ c ∈ m, a < c.1) : Memory.read m a = erasedByte := by
  induction m with
  | nil => rfl
  | cons d m ih =>
    obtain ⟨k, w⟩ := d
    have := h (k, w) List.mem_cons_self
    simp only [Memory.read]
    rw [if_neg (by simp only at this; omega)]
    exact ih (fun c hc => h c (List.mem_cons_of_mem _ hc))

/-- A read after a write: the byte written at its index, every other byte as before. -/
theorem Memory.read_write (m : Memory) (a b : Nat) (v : Byte) (h : Memory.wf m = true) :
    Memory.read (Memory.write m a v) b = if b = a then v else Memory.read m b := by
  induction m with
  | nil =>
    simp only [Memory.write]
    split
    · rename_i hv
      by_cases hb : b = a <;> simp [hb, Memory.read, hv]
    · by_cases hb : b = a
      · simp [hb, Memory.read]
      · simp [hb, Memory.read, Ne.symm hb]
  | cons d m ih =>
    obtain ⟨k, w⟩ := d
    have hd := (Memory.wf_cons k w m).1 h
    simp only [Memory.write]
    split
    · rename_i hlt
      split
      · rename_i hv
        by_cases hb : b = a
        · subst hb
          rw [if_pos rfl, hv]
          apply Memory.read_below
          intro c hc
          rcases List.mem_cons.1 hc with rfl | hc
          · exact hlt
          · exact Nat.lt_trans hlt (hd.2.2 c hc)
        · rw [if_neg hb]
      · by_cases hb : b = a
        · simp [hb, Memory.read]
        · rw [if_neg hb]; simp only [Memory.read]; rw [if_neg (Ne.symm hb)]
    · split
      · rename_i hnl heq
        subst heq
        split
        · rename_i hv
          by_cases hb : b = a
          · subst hb
            rw [if_pos rfl, hv]
            exact Memory.read_below m b hd.2.2
          · rw [if_neg hb]; simp only [Memory.read]; rw [if_neg (Ne.symm hb)]
        · by_cases hb : b = a
          · simp [hb, Memory.read]
          · rw [if_neg hb]; simp only [Memory.read]; rw [if_neg (Ne.symm hb), if_neg (Ne.symm hb)]
      · rename_i hnl hne
        simp only [Memory.read]
        by_cases hk : k = b
        · subst hk
          rw [if_pos rfl, if_pos rfl, if_neg (Ne.symm hne)]
        · rw [if_neg hk, if_neg hk]
          exact ih hd.2.1

end Sys2Proof.Machine
end

