-- ==== Sys2Proof/Laws/Store.lean ====
section
/-! SUPPORT. The Profile Store: the two banks under an exchange of the standby bank, what each operation
leaves of the store, and the bytes of a load that lie in the sample positions. -/

namespace Sys2Proof.Machine

namespace ProfileStore

variable (p : ProfileStore)

@[simp] theorem setStandby_frame (b : Bank) :
    (p.setStandby b).standbyBank = b ∧ (p.setStandby b).activeBank = p.activeBank
    ∧ (p.setStandby b).active = p.active ∧ (p.setStandby b).lastSwap = p.lastSwap
    ∧ (p.setStandby b).load = p.load := by
  simp only [setStandby, standbyBank, activeBank]
  cases p.active <;> simp

/-- The banks of a store do not depend on its load record and its last swap outcome. -/
theorem banks_congr (q : ProfileStore) (h1 : q.active = p.active) (h2 : q.bankA = p.bankA)
    (h3 : q.bankB = p.bankB) : q.activeBank = p.activeBank ∧ q.standbyBank = p.standbyBank := by
  simp only [standbyBank, activeBank, h1, h2, h3, and_self]

/-- An accepted LOAD (R100, R101). -/
theorem beginLoad_frame (n d q : Nat) :
    (p.beginLoad n d q).active = p.active ∧ (p.beginLoad n d q).activeBank = p.activeBank
    ∧ (p.beginLoad n d q).lastSwap = p.lastSwap
    ∧ (p.beginLoad n d q).standbyBank = { Bank.erased with state := .loading }
    ∧ (p.beginLoad n d q).load = some (Load.begin n d q) := by
  simp only [beginLoad, setStandby, standbyBank, activeBank]
  cases p.active <;> simp

/-- A load that ends without a usable bank (R99, R105, R106, R113). -/
theorem dropLoad_frame :
    p.dropLoad.active = p.active ∧ p.dropLoad.activeBank = p.activeBank
    ∧ p.dropLoad.lastSwap = p.lastSwap ∧ p.dropLoad.standbyBank = Bank.erased
    ∧ p.dropLoad.load = none := by
  simp only [dropLoad, setStandby, standbyBank, activeBank]
  cases p.active <;> simp

/-- A pending swap cancelled (R99, R113). -/
theorem cancelSwap_frame :
    p.cancelSwap.active = p.active ∧ p.cancelSwap.activeBank = p.activeBank
    ∧ p.cancelSwap.lastSwap = .cancelled
    ∧ p.cancelSwap.standbyBank = { p.standbyBank with state := .ready }
    ∧ p.cancelSwap.load = p.load := by
  simp only [cancelSwap, setStandby, standbyBank, activeBank]
  cases p.active <;> simp

/-- A swap completed (R110). -/
theorem completeSwap_frame :
    p.completeSwap.active ≠ p.active ∧ p.completeSwap.lastSwap = .done
    ∧ p.completeSwap.activeBank = { p.standbyBank with state := .ready }
    ∧ p.completeSwap.standbyBank = p.activeBank ∧ p.completeSwap.load = p.load := by
  simp only [completeSwap, setStandby, standbyBank, activeBank, BankId.other]
  cases p.active <;> simp

/-- The bytes of a DATA frame: the active bank and the roles stay (R102). -/
theorem takeData_frame (l : Load) (bytes : List Byte) :
    (p.takeData l bytes).active = p.active ∧ (p.takeData l bytes).activeBank = p.activeBank
    ∧ (p.takeData l bytes).lastSwap = p.lastSwap
    ∧ (p.takeData l bytes).standbyBank = (bytes.foldl takeByte (l, p.standbyBank)).2
    ∧ (p.takeData l bytes).load = some (bytes.foldl takeByte (l, p.standbyBank)).1 := by
  simp only [takeData, setStandby, standbyBank, activeBank]
  cases p.active <;> simp

end ProfileStore

/-- A bank passes the check of a swap for a record (R109). -/
theorem swapPasses_iff (b : Bank) (r : Record) : swapPasses b r = true ↔ PassesSwap b r := by
  simp only [swapPasses, PassesSwap]
  cases b.profile r.zone <;> simp [and_assoc]

/-- The record that blocks a swap: none, or the first live WRITE record that does not pass (R109). -/
theorem swapBlocker_none (b : Bank) (records : List Record)
    (h : ∀ r ∈ records, r.live = true → r.kind = .write → PassesSwap b r) :
    swapBlocker b records = none := by
  simp only [swapBlocker, List.find?_eq_none]
  intro r hr
  simp only [Bool.and_eq_true, decide_eq_true_eq, Bool.not_eq_true', not_and, Bool.not_eq_false]
  intro h1
  exact (swapPasses_iff b r).2 (h r hr h1.1 h1.2)

theorem swapBlocker_some (b : Bank) (pre post : List Record) (r : Record)
    (h : ∀ x ∈ pre, x.live = true → x.kind = .write → PassesSwap b x) (h1 : r.live = true)
    (h2 : r.kind = .write) (h3 : ¬ PassesSwap b r) : swapBlocker b (pre ++ r :: post) = some r := by
  have hp : swapPasses b r = false := by
    rw [Bool.eq_false_iff]; exact fun hh => h3 ((swapPasses_iff b r).1 hh)
  have hn := swapBlocker_none b pre h
  simp only [swapBlocker] at hn ⊢
  simp [List.find?_append, hn, h1, h2, hp]

/-- Bytes that lie in the sample positions become the samples at those positions (R102). -/
theorem takeByte_samples (l : Load) (b : Bank) (bytes : List Byte) (hs : LoadSound l)
    (hw : Memory.wf b.samples = true) (h1 : 4 * l.d + 14 * l.p ≤ l.received)
    (h2 : l.received + bytes.length ≤ 4 * l.d + 14 * l.p + l.n) :
    ∃ m, bytes.foldl takeByte (l, b)
        = ({ l with received := l.received + bytes.length }, { b with samples := m })
      ∧ Memory.wf m = true
      ∧ ∀ a, Memory.read m a =
          if l.received - (4 * l.d + 14 * l.p) ≤ a ∧ a < l.received + bytes.length - (4 * l.d + 14 * l.p)
          then bytes.getD (a - (l.received - (4 * l.d + 14 * l.p))) 0
          else Memory.read b.samples a := by
  induction bytes generalizing l b with
  | nil =>
    refine ⟨b.samples, rfl, hw, fun a => ?_⟩
    rw [if_neg]
    simp only [List.length_nil, Nat.add_zero]
    omega
  | cons x xs ih =>
    simp only [List.length_cons] at h2 ⊢
    obtain ⟨s1, s2, s3, s4, s5, s6⟩ := hs
    have hstep : takeByte (l, b) x =
        ({ l with received := l.received + 1 },
          { b with samples := Memory.write b.samples (l.received - 4 * l.d - 14 * l.p) x }) := by
      have e1 : ¬ l.received < 4 * l.d := by omega
      have e2 : ¬ l.received < 4 * l.d + 14 * l.p := by omega
      have e3 : l.received < l.expected := by simp only [Load.expected]; omega
      have e4 : min (l.received + 1) 65535 = l.received + 1 := by omega
      simp [takeByte, e1, e2, e3, e4]
    obtain ⟨m, hm, hmw, hr⟩ := ih { l with received := l.received + 1 }
      { b with samples := Memory.write b.samples (l.received - 4 * l.d - 14 * l.p) x }
      ⟨s1, s2, s3, s4, s5, by simp only; omega⟩ (Memory.wf_write _ _ _ hw) (by simp only; omega)
      (by simp only; omega)
    refine ⟨m, ?_, hmw, fun a => ?_⟩
    · rw [List.foldl_cons, hstep, hm]
      simp only [Nat.add_assoc, Nat.add_comm 1]
    · rw [hr a, Memory.read_write _ _ _ _ hw]
      simp only
      by_cases hlo : a = l.received - 4 * l.d - 14 * l.p
      · rw [if_neg (by omega), if_pos hlo, if_pos (by omega)]
        have : a - (l.received - (4 * l.d + 14 * l.p)) = 0 := by omega
        rw [this]; rfl
      · rw [if_neg hlo]
        by_cases hin : l.received + 1 - (4 * l.d + 14 * l.p) ≤ a
            ∧ a < l.received + 1 + xs.length - (4 * l.d + 14 * l.p)
        · rw [if_pos hin, if_pos (by omega)]
          have : a - (l.received - (4 * l.d + 14 * l.p))
              = (a - (l.received + 1 - (4 * l.d + 14 * l.p))) + 1 := by omega
          rw [this, List.getD_cons_succ]
        · rw [if_neg hin, if_neg (by omega)]

end Sys2Proof.Machine
end

