-- ==== Sys2Proof/Tests/Slice0.lean ====
section
/-! SUPPORT. Tests: ill-formed commands, the manual's worked examples, one small step of each family, and for
every statement with hypotheses a state and operands that meet them, clause by clause. -/

namespace Sys2Proof.Tests

open Sys2Proof Sys2Proof.Machine

set_option maxRecDepth 100000

/-! ### Well-formedness -/

theorem test_wf_long_payload : (Instr.post (List.replicate 65 0)).wellFormed = false := by decide

theorem test_wf_known_kind_is_not_unknown : (Instr.unknownKind 0x40 []).wellFormed = false := by decide

theorem test_wf_announce_of_four :
    (Instr.announce 1 1 (List.replicate 4 ⟨0, 0, 0, 0, 1⟩)).wellFormed = false := by decide

theorem test_wf_zero_intervals :
    (Instr.indexPulse 0).wellFormed = false ∧ (Instr.peerLost 1 0).wellFormed = false
    ∧ (Instr.listenEnd 0).wellFormed = false ∧ (Instr.resyncTimeout 0).wellFormed = false
    ∧ (Instr.quietTimeout 0).wellFormed = false := by decide

theorem test_wf_good_commands :
    (Instr.post (List.replicate 64 0)).wellFormed = true ∧ (Instr.unknownKind 0x99 []).wellFormed = true
    ∧ (Instr.announce 1 1 (List.replicate 3 ⟨0, 0, 0, 0, 1⟩)).wellFormed = true
    ∧ (Instr.indexPulse 1).wellFormed = true := by decide

/-! ### States of the tests -/

/-- The state a command leads to. -/
def after (c : Instr) (s : State) : State :=
  match exec c s with
  | .next t => t
  | .fault _ => s
  | .refused _ => s

/-- Revolution 10 at an angle. -/
def at10 (angle : Nat) : Time := BitVec.ofNat 20 (40960 + angle)

/-- A running clock at revolution 10. -/
def clock10 (angle : Nat) : Clock :=
  { revolution := 10, angle := BitVec.ofNat 12 angle, period := some 4096, hold := false, valid := true,
    pulseSeen := true }

/-- Zone 4's profile of section 11.8: lead 200, tail allowance 150, level 40, hold sample 90. -/
def profile4 : Profile :=
  { preheat := [0], write := 1, tail := [2], hold := 90, lead := 200, tailAllowance := 150, level := 40 }

def bank4 : Bank :=
  { state := .ready, samples := [(0, 20), (1, 30), (2, 128), (3, 200), (4, 255), (5, 5)],
    descriptors := [⟨0, 2⟩, ⟨2, 3⟩, ⟨5, 1⟩] ++ List.replicate 61 ⟨0, 0⟩,
    profiles := List.replicate 4 none ++ [some profile4] ++ List.replicate 11 none }

def goodHead : HeadRecord :=
  { state := .valid, threshold := 180, write := 660, trim := -2, source := .cal, stamp := none }

/-- A peer of the tests. -/
def peer (st : PeerState) (heard : Nat) : PeerEntry :=
  { state := st, lastHeard := heard, unit := some 7, digest := some 9, announced := false }

/-- An ACTIVE, IN_SYNC station 0 with peers 1 and 2, zone 4 loaded and head 0 calibrated. -/
def active (angle : Nat) : State :=
  { State.reset with
    clock := clock10 angle, station := .active,
    store := { State.reset.store with bankA := bank4 },
    heads := goodHead :: List.replicate 15 HeadRecord.powerOn,
    peers := { PeerBlock.cleared 0 with
      table := [{ PeerEntry.absentEntry with state := .self }, peer .active 1, peer .active 2]
        ++ List.replicate 5 PeerEntry.absentEntry,
      sync := .inSync },
    config := { Configuration.powerOn with bTotal := 100, headCount := 4, lMax := 2000 } }

/-- Record tag 12 of section 11.8, in revolution 10: window 800..2350. -/
def record12 (st : RecordState) : Record :=
  { tag := 12, kind := .write, head := 0, zone := 4, planStart := at10 1000, length := 1200, lead := 200,
    tailAllowance := 150, level := 40, windowStart := at10 800, windowEnd := at10 2350, claim := 1,
    sequence := 0, state := st, cancel := none, releasePending := false, outcome := none,
    finishStamp := none, hint := none, report := none, calResult := none, faultStamp := none }

/-- Record tag 12 alone in the queue, not executing. -/
def waiting (angle : Nat) (st : RecordState) : State :=
  { active angle with plans := { records := [record12 st], finished := [], accepted := 1 } }

/-- Record tag 12 executing at a position of its play. -/
def playing (angle : Nat) (st : RecordState) (ph : Phase) (segment k : Nat) : State :=
  { waiting angle st with
    seq := { Sequencer.powerOn with
      current := some 12, profile := some profile4,
      captured := some { threshold := 180, write := 660, trim := -2 }, laser := .on 0 349,
      position := some { phase := ph, segment := segment, sample := some k } } }

/-- An open burst of record tag 12. -/
def burst12 : Burst := { Burst.opened (record12 .writing) with sampling := true, target := 96 }

/-- A CAL record on head 2 from angle 1000 (section 7.6). -/
def calRecord (st : RecordState) : Record :=
  { record12 st with tag := 5, kind := .cal, head := 2, zone := 0, length := 400, lead := 0,
                     tailAllowance := 0, planStart := at10 1000, windowStart := at10 1000,
                     windowEnd := at10 1400 }

/-- A CAL record at the end of a step of its search. -/
def searching (angle : Nat) (x : Search) : State :=
  { active angle with
    plans := { records := [calRecord .calibrating], finished := [], accepted := 1 },
    seq := { Sequencer.powerOn with current := some 5, laser := .on 2 512 }, search := some x }

def searchAt (step threshold offset : Nat) : Search :=
  { tag := 5, head := 2, step := step, threshold := threshold, offset := offset, monlo := 0 }

/-- A station with one entry in its transmit queue. -/
def sending (e : TxEntry) (f : LinkFrame) : State :=
  { active 1000 with link := { Link.powerOn with queue := [e],
                                                 onLine := some { frame := f, discard := false } } }

/-! ### The worked examples -/

/-- Table 2-5: a digest. -/
def table25 : List Entry :=
  [⟨2, 0, at10 1240, at10 2440, 50, .write, .admitted⟩, ⟨5, 4, at10 1840, at10 3040, 30, .write, .admitted⟩,
   ⟨1, 7, at10 2640, at10 3640, 40, .cal, .admitted⟩, ⟨3, 2, at10 1640, at10 3240, 20, .write, .admitted⟩]

theorem test_digest_of_table_2_5 : digest table25 = 2708#16 := by decide

/-- Section 2.12: station 3's CLAIM is admitted after the purge at 1000. -/
theorem test_admission_of_section_2_12 :
    admission (purge (⟨5, 3, at10 540, at10 940, 30, .write, .admitted⟩ :: table25.take 3) (at10 1000)) 100 3
      (at10 1000) 2 0 (at10 1640) (at10 3240) 20 = (.admitted, table25) := by decide

/-- Section 2.12: station 6's CLAIM is denied; its hint is 3040. -/
theorem test_hint_of_section_2_12 :
    (admission (purge table25 (at10 1040)) 100 6 (at10 1040) 1 0 (at10 1740) (at10 2040) 15).1 = .denied
    ∧ hintFor table25 100 (at10 1060) (at10 1740) (at10 2040) 15 = some (at10 3040) := by decide

/-- Section 2.12: the RELEASE of station 2 shortens its entry; the digest falls by 500. -/
theorem test_release_of_section_2_12 :
    digest (applyRelease (purge table25 (at10 1990)) 2 0 (at10 1940)) = 2208#16 := by decide

/-- Table 4-2: codes for threshold code 180, write code 660 and trim −2. -/
theorem test_codes_of_table_4_2 :
    [0, 90, 128, 255].map (levelCode { threshold := 180, write := 660, trim := -2 }) = [180, 349, 420, 658] := by
  decide

/-- Table 5-2: references for write reference 192 and monitor window 16. -/
theorem test_references_of_table_5_2 :
    [20, 128, 200, 255].map (fun x =>
        let t := monitorTarget Configuration.powerOn x
        (t, lowReference Configuration.powerOn t, highReference Configuration.powerOn t))
      = [(15, 0, 31), (96, 80, 112), (150, 134, 166), (192, 176, 208)] := by decide

/-- Section 6.7: the items of the first load, its descriptors and records taken whole. -/
def items67 : List Byte :=
  byte2 0 ++ byte2 40 ++ byte2 40 ++ byte2 60 ++ byte2 100 ++ byte2 150 ++ byte2 250 ++ byte2 50
  ++ [3, 0x12, 0, 1, 0, 2, 3, 0, 0, 90, 40] ++ byte3 (200 + 4096 * 100)
  ++ [7, 0x01, 0, 0, 0, 2, 0, 0, 0, 80, 35] ++ byte3 (300 + 4096 * 120)

theorem test_load_of_section_6_7 :
    let lb := items67.foldl takeByte (Load.begin 300 4 2, { Bank.erased with state := .loading })
    lb.1.received = 44 ∧ lb.1.expected = 344
    ∧ ({ lb.1 with received := 344 } : Load).verdict = (0, 0)
    ∧ (readyBank lb.1 lb.2).profile 3 = some ⟨[0, 1], 2, [3], 90, 200, 100, 40⟩
    ∧ (readyBank lb.1 lb.2).profile 7 = some ⟨[0], 2, [], 80, 300, 120, 35⟩ := by decide

/-- Section 6.7: descriptor 3 with first 260 fails DESCRIPTOR. -/
theorem test_failed_load_of_section_6_7 :
    let lb := ((items67.take 12 ++ byte2 260 ++ byte2 50).foldl takeByte
      (Load.begin 300 4 2, { Bank.erased with state := .loading }))
    ({ lb.1 with received := 344 } : Load).verdict = (2, 3) := by decide

/-- Tables 7-7 and 7-8: the calibration search on head 2 finds 180 and 660. -/
theorem test_search_of_section_7_6 :
    let highs := [true, true, false, true, false, false, true, false, true, true,
      true, false, false, false, true, false, false, false, false, false]
    let x := highs.foldl (fun x h => { x.reading false h with step := x.step + 1 }) (searchAt 1 0 0)
    x.threshold = 180 ∧ x.offset = 479
    ∧ x.result = { threshold := 180, write := 660, cause := .none, monlo := 0 } := by decide

/-- Section 11.7: the digest of two claims. -/
theorem test_digest_of_section_11_7 :
    digest [⟨1, 0, at10 1000, at10 2000, 40, .write, .admitted⟩,
      ⟨3, 0, at10 1200, at10 2400, 40, .write, .admitted⟩] = 0xDA18#16 := by decide

/-- Section 11.7: the third claim is denied, its hint 2000. -/
theorem test_hint_of_section_11_7 :
    hintFor [⟨1, 0, at10 1000, at10 2000, 40, .write, .admitted⟩,
      ⟨3, 0, at10 1200, at10 2400, 40, .write, .admitted⟩] 100 (at10 690) (at10 1500) (at10 2200) 30
      = some (at10 2000) := by decide

/-- The bytes of a SYNC-REQUEST and of a RELEASE (Tables 8-2, 11-2, 11-3). -/
theorem test_link_frame_bytes :
    (LinkFrame.syncRequest).bytes 3 = [0x6A, 0x03, 0x05, 0x00, 0xF8, 0x95]
    ∧ ((LinkFrame.release (BitVec.ofNat 20 0x0A3E8) 0 (BitVec.ofNat 20 0x0A794)).bytes 2)
      = [0x6A, 0x02, 0x04, 0x07, 0xE8, 0xA3, 0x00, 0x00, 0x94, 0xA7, 0x00, 0x2D, 0x95] := by decide

/-- A received frame is the command it spells; a wrong check is a frame error, and so is a frame that stops
short once the line has been idle for more than 20 bit times (R136, R137). -/
theorem test_received_frame :
    lineCommand (((LinkFrame.syncRequest).bytes 3).map (fun b => ⟨b, false, 0⟩)) 0 false
      = some (.syncRequest 3)
    ∧ lineCommand ([0x6A, 0x03, 0x05, 0x00, 0xF7].map (fun b => ⟨b, false, 0⟩)) 0 false
      = some (.linkFrameError true)
    ∧ lineCommand ([0x6A, 0x03].map (fun b => ⟨b, false, 0⟩)) 20 false = none
    ∧ lineCommand ([0x6A, 0x03].map (fun b => ⟨b, false, 0⟩)) 21 false = some (.linkFrameError true) := by
  decide

/-- A plan port transaction, and the bytes of a reply (R163, R164). -/
theorem test_plan_port_bytes :
    commandOf [0x51, 0x01, 0x50, 0xAF, 0x17] = some (.status [])
    ∧ commandOf [0x51, 0x01, 0x50, 0xAE, 0x17] = some .planPortFrameError
    ∧ commandOf [0xFF, 0x51] = none
    ∧ (Reply.bytes { kind := 0x42, result := .noSuchTag, payload := [] })
      = [0x52, 0x02, 0x42, 0x09, 0xB3, 0x17] := by decide

/-- A byte sampled from its ten bit times, and one with a framing fault (R128). -/
theorem test_sampled_bytes :
    (Link.powerOn.sampleAll (lineBits 0xC5)).2 = [⟨0xC5, false, 0⟩]
    ∧ (Link.powerOn.sampleAll ([true, true] ++ (lineBits 0x6A).take 9 ++ [false])).2 = [⟨0x6A, true, 2⟩] := by
  decide

/-- A receiver at the stop bit of a byte of a frame. -/
def receivingLast (before : List Byte) (last : Byte) : State :=
  { active 0 with link := { Link.powerOn with
      receiver := .receiving, assembly := before.map (fun b => ⟨b, false, 0⟩),
      byteBits := some (0, (List.range 8).map (fun i => last.getLsbD i)) } }

/-- The stop bit of a frame's trailer brings its command; a stop bit sampled low brings a frame error, as do 21
idle bit times within a frame (R128, R136, R137). -/
theorem test_line_bits :
    ((receivingLast [0x6A, 0x03, 0x05, 0x00, 0xF8] 0x95).lineBit true false).pending = [.syncRequest 3]
    ∧ ((receivingLast [0x6A, 0x03, 0x05, 0x00, 0xF8] 0x95).lineBit false false).pending
      = [.linkFrameError true]
    ∧ (({ active 0 with link := { Link.powerOn with
          receiver := .receiving, assembly := [⟨0x6A, false, 0⟩], idleCount := 20 } } : State).lineBit true
        false).pending = [.linkFrameError true, .idleForMoreThan20BitTimes]
    ∧ (({ active 0 with link := { Link.powerOn with postSend := true } } : State).lineBit false
        false).link.postSend = false := by
  decide

/-- Section 8.7's disturbance: a frame stopped within a byte leaves the line idle from its last low bit at every
receiver, and 20 idle bit times later the next one brings the truncation; the trailer of a whole frame leaves it idle
from its stop bit (R128, R137). -/
theorem test_stopped_frame :
    let peer : Link := (receivingLast [0x6A, 0x06, 0x04] 0).link
    let stopped := ({ peer with byteBits := none } : Link).sampleAll ([false, true, false] ++ List.replicate 28 true)
    let whole := (receivingLast [0x6A, 0x03, 0x05, 0x00, 0xF8] 0x95).link.sample true
    stopped.1.idleCount = 28 ∧ stopped.2 = [⟨0xFD, false, 0⟩] ∧ whole.1.idleCount = 0 := by decide

/-- The angle reaches 4095 by the advance of the clock or at an event there, and the hold flag is set with it; a
STATUS then reports it (R1, R3). -/
theorem test_hold_at_4095 :
    (active 4094).tick.clock = { clock10 4095 with hold := true }
    ∧ ((active 4090).clockTo (at10 4095)).map State.clock = some { clock10 4095 with hold := true }
    ∧ (active 4093).tick.clock = clock10 4094 := by decide

/-- The levels of PDO: nothing with PCS high, the reply most significant bit first with PCS low (R162). -/
theorem test_pdo_levels :
    let s : State := { active 0 with reply := some ⟨0x51, .ok, []⟩ }
    s.pdoLevels true 1 = none
    ∧ s.pdoLevels false 1 = some [false, true, false, true, false, false, true, false] := by decide

/-- Section 9.2's example: the revolution adopted from a BEACON of revolution 17 with a pulse in between. -/
theorem test_adopted_revolution :
    (after (.beacon 1 (BitVec.ofNat 20 (17 * 4096 + 4000)) 0 0 1 true)
      { active 30 with station := .listen,
                       peers := { PeerBlock.cleared 0 with listenPulses := 1 } }).clock.revolution = 18 := by
  decide

/-- Section 11.8: POST of tag 12, and its record. -/
theorem test_post_of_section_11_8 :
    let t := after (.post ([12, 0, 4] ++ timeBytes (at10 1000) ++ byte2 1200)) (active 100)
    t.plans.records = [{ record12 .queued with claim := 0 }]
    ∧ t.link.queue = [.claim 0 .write (at10 800) (at10 2350) 40]
    ∧ t.reply = some { kind := 0x40, result := .ok,
                       payload := timeBytes (at10 800) ++ timeBytes (at10 2350) ++ [0] } := by decide

/-- Section 11.8: the tail's last sample at 1930 ends the plan DONE with a RELEASE at 1930. -/
theorem test_end_of_section_11_8 :
    let t := after (.profileStepEnd false false) (playing 1930 .tail .tail 0 0)
    t.plans.records.map (fun r => (r.outcome, r.finishStamp, r.releasePending))
      = [(some .done, some (at10 1930), true)]
    ∧ t.link.queue = [.release 1 (at10 1930)] ∧ t.seq.laser = .off := by decide

/-- Section 4.10's stray gate and fault record (R84, R170). -/
theorem test_stray_gate :
    (after .wgateRise (active 1580)).fault = { cause := some .strayGate, stamp := at10 1580, further := false }
    ∧ (after .wgateRise (active 1580)).seq.wfault = true ∧ (after .wgateRise (active 1580)).attn = true := by
  decide

/-- Section 11.11: a CANCEL while CLAIMING, admitted at loopback: CANCELLED, a RELEASE at the window start. -/
theorem test_cancel_of_section_11_11 :
    let s := { sending (.claim 1 .write (at10 1600) (at10 2600) 50)
                 (.claim (at10 900) 1 .write (at10 1600) (at10 2600) 50) with
               plans := {
                 records := [{ record12 .claiming with
                   windowStart := at10 1600, windowEnd := at10 2600, cancel := some .segmentEnd }],
                 finished := [], accepted := 1 } }
    (after .transmissionCompletes s).plans.records.map (fun r => (r.outcome, r.hint))
      = [(some .cancelled, none)]
    ∧ (after .transmissionCompletes s).link.queue = [.release 1 (at10 1600)]
    ∧ (after .transmissionCompletes s).table.length = 1 := by decide

/-- The machine: a step from reset on an empty queue idles; a command in front is run. -/
theorem test_step_from_reset :
    core.step core.reset = .next core.reset
    ∧ step { State.reset with pending := [.status []] } = exec (.status []) State.reset := by
  exact ⟨rfl, rfl⟩

/-! ### The hypotheses of the statements are met -/

theorem test_witness_IdleStepTakesDueEventOrTicks :
    (waiting 400 .queued).pending = [] ∧ (waiting 400 .queued).dueEvent = some (.transmitDeadline 12)
    ∧ (active 4094).dueEvent = none ∧ (active 4094).pins.rstn = true ∧ (active 4094).clock.valid = true
    ∧ (active 4094).clock.hold = false ∧ (active 4094).clock.angle ≠ 4095
    ∧ State.reset.dueEvent = none ∧ State.reset.clock.valid = false
    ∧ ({ active 4095 with clock := { clock10 4095 with hold := true } } : State).dueEvent = none := by decide

theorem test_witness_RotationalTimeArithmetic :
    Clock.powerOn.angle = Clock.powerOn.angle
    ∧ Clock.powerOn.revolution.toNat = (Clock.powerOn.revolution.toNat + 256) % 256 := by decide

theorem test_witness_TimesComparedModularly :
    (((524287#20).toNat + 1048576 - (0#20).toNat) % 1048576 < 524288)
    ∧ (524288 ≤ ((1048575#20).toNat + 1048576 - (0#20).toNat) % 1048576)
    ∧ ((524288#20).toNat + 1048576 - (0#20).toNat) % 1048576 = 524288 := by decide

theorem test_witness_WindowsOverlap :
    0 ≤ timeDiff (at10 0) (at10 0) ∧ 0 ≤ timeDiff (at10 3584) (at10 0) ∧ timeDiff (at10 3584) (at10 0) ≤ 3584
    ∧ timeDiff (at10 262144) (at10 0) ≤ 262144 ∧ -262144 ≤ timeDiff (at10 0) (at10 262144) := by decide

theorem test_witness_DigestIsSumOfEntryTerms :
    (⟨1, 0, at10 0, at10 9, 40, .write, .admitted⟩ : Entry).digestTerm % 65536
      ≠ (⟨1, 0, at10 0, at10 8, 40, .write, .admitted⟩ : Entry).digestTerm % 65536 := by decide

theorem test_witness_Budget_and_Hint :
    (∀ e ∈ table25, 1 ≤ timeDiff e.windowEnd e.windowStart ∧ timeDiff e.windowEnd e.windowStart ≤ 3584)
    ∧ 1 ≤ timeDiff (at10 1) (at10 0) ∧ timeDiff (at10 3584) (at10 0) ≤ 3584
    ∧ hintFor table25 100 (at10 1060) (at10 1740) (at10 2040) 15 ≠ none
    ∧ hintFor table25 10 (at10 1060) (at10 1740) (at10 2040) 15 = none := by decide

theorem test_witness_MonitorCountsSaturate :
    ({ burst12 with q3 := 15 } : Burst).q3 = 15 := by decide

theorem test_witness_LinkFrameEnvelope : ∀ final es,
    LinkFrame.announce true (table25.take 3) = .announce final es → es.length ≤ 3 := by
  rintro final es h; cases h; decide

theorem test_witness_PlanPortEnvelopes :
    (List.replicate 64 (0 : Byte)).length ≤ 64 ∧ (0 : Byte) ≠ 0xFF ∧ (0 : Byte) ≠ 0x51
    ∧ State.reset.pins.rstn = true ∧ State.reset.reply = none
    ∧ (after .rstnFalls State.reset).pins.rstn = false
    ∧ (after (.start [1]) State.reset).reply = some ⟨0x11, .badLength, []⟩ := by decide

/-- A configuration in range, at the ends of its ranges. -/
def config1 : Configuration := { Configuration.powerOn with bTotal := 1, lMax := 3568, gMin := 1023 }

theorem test_witness_ConfigureReplacesConfiguration :
    State.reset.pins.rstn = true ∧ config1.Fits ∧ State.reset.station = .setup ∧ config1.InRange
    ∧ ¬ ({ config1 with bTotal := 0 } : Configuration).InRange
    ∧ ({ config1 with bTotal := 0 } : Configuration).Fits ∧ (active 0).station ≠ .setup
    ∧ (List.replicate 19 (3#8)).length = 19 ∧ 2 < ((List.replicate 19 (3#8)).getD 17 0).toNat := by
  refine ⟨rfl, ?_, rfl, ?_, ?_, ?_, by decide, rfl, by decide⟩ <;> simp [Configuration.Fits, Configuration.InRange, config1,
    Configuration.powerOn]

theorem test_witness_StartEntersListen :
    (State.reset).plans.records = [] ∧ ({ State.reset with config := config1 } : State).station = .setup
    ∧ 1 ≤ config1.bTotal ∧ config1.fence.side = .none ∧ State.reset.config.bTotal = 0
    ∧ ¬ Widening ⟨.low, 1⟩ ⟨.high, 1⟩ ∧ Widening ⟨.low, 1⟩ ⟨.low, 2⟩ ∧ (active 0).station ≠ .setup := by
  refine ⟨rfl, rfl, by decide, rfl, rfl, ?_, ?_, by decide⟩ <;> simp [Widening]

/-- A station in SETUP loading 2 descriptors, no profile and 3 samples into bank B, its load record given. -/
def loading (received : Nat) (item : List Byte) : State :=
  { State.reset with
    store := { State.reset.store with
      bankB := { Bank.erased with state := .loading },
      load := some { Load.begin 3 2 0 with received := received, item := item } } }

theorem loading_sound (received : Nat) (item : List Byte) (h : received ≤ 65535) :
    LoadSound { Load.begin 3 2 0 with received := received, item := item } := by
  refine ⟨?_, ?_, ?_, ?_, ?_, h⟩ <;> simp [Load.begin]

theorem test_witness_LoadErasesStandbyBank :
    State.reset.pins.rstn = true ∧ State.reset.station = .setup ∧ State.reset.restrictions.load = false
    ∧ State.reset.store.standbyBank.state ≠ .swapPending ∧ (active 0).station = .active := by decide

theorem test_witness_DataStoresItems :
    (loading 8 []).station ≠ .halted ∧ (loading 8 []).restrictions.load = false
    ∧ (loading 8 []).store.standbyBank.state = .loading
    ∧ (loading 8 []).store.load = some { Load.begin 3 2 0 with received := 8, item := [] }
    ∧ LoadSound { Load.begin 3 2 0 with received := 8, item := [] }
    ∧ BankSound (loading 8 []).store.standbyBank
    ∧ 8 + ([1, 2, 3] : List Byte).length ≤ 4 * 2 + 14 * 0 + 3
    ∧ LoadSound { Load.begin 3 2 0 with received := 7, item := [1, 0, 3] }
    ∧ (7 = 4 * 1 + 3 ∧ [1#8, 0#8, 3#8] ++ [0#8] = byte2 1 ++ byte2 3) := by
  refine ⟨by decide, rfl, rfl, rfl, loading_sound 8 [] (by decide), ?_, by decide, loading_sound 7 _ (by decide),
    by decide⟩
  exact ⟨rfl, by intro c hc; exact absurd hc List.not_mem_nil, rfl, rfl⟩

theorem test_witness_FinalDataGivesVerdict :
    (loading 11 []).pins.rstn = true ∧ (loading 11 []).store.standbyBank.state = .loading
    ∧ (loading 11 []).store.load = some { Load.begin 3 2 0 with received := 11, item := [] } := by
  exact ⟨rfl, rfl, rfl⟩

/-- Bank B ready, or with a swap pending, beside bank A of the tests. -/
def swapping (s : State) (st : BankState) (level : Nat) : State :=
  { s with store := { s.store with bankB := { bank4 with
      state := st,
      profiles := List.replicate 4 none ++ [some { profile4 with level := level }]
        ++ List.replicate 11 none } } }

theorem bank4_sound (st : BankState) (level : Nat) : BankSound { bank4 with
      state := st, profiles := List.replicate 4 none ++ [some { profile4 with level := level }]
        ++ List.replicate 11 none } := by
  refine ⟨by show Memory.wf bank4.samples = true; decide, ?_, rfl, rfl⟩
  show ∀ c ∈ bank4.samples, c.1 < 2048
  decide

theorem swapping_storeSound (angle : Nat) (st : RecordState) :
    StoreSound (swapping (waiting angle st) .swapPending 40) := by
  refine ⟨bank4_sound .ready 40, bank4_sound .swapPending 40, Or.inr rfl, ?_, ?_⟩
  · show BankState.swapPending = .loading ↔ (none : Option Load).isSome = true
    decide
  · intro l h; cases h

theorem test_witness_SwapExchangesWaitsOrIsRefused :
    (swapping State.reset .ready 40).store.standbyBank.state = .ready
    ∧ (swapping State.reset .ready 40).station = .setup
    ∧ (swapping (playing 900 .ready .preheat 0 1) .ready 40).seq.current.isSome = true
    ∧ (swapping (waiting 500 .granted) .swapPending 40).store.standbyBank.state = .swapPending
    ∧ (swapping (waiting 500 .granted) .swapPending 40).seq.current = none
    ∧ (∀ r ∈ (swapping (waiting 500 .granted) .swapPending 40).plans.records, r.live = true →
        r.kind = .write → PassesSwap (swapping (waiting 500 .granted) .swapPending 40).store.standbyBank r)
    ∧ (waiting 500 .granted).plans.records = [] ++ record12 .granted :: []
    ∧ (record12 .granted).live = true
    ∧ ¬ PassesSwap (swapping (waiting 500 .granted) .swapPending 41).store.standbyBank (record12 .granted) := by
  refine ⟨rfl, rfl, rfl, rfl, rfl, ?_, rfl, rfl, ?_⟩
  · intro r hr _ _
    rcases List.mem_singleton.1 hr with rfl
    exact ⟨profile4, rfl, by decide, by decide, by decide⟩
  · rintro ⟨p, hp, h, _⟩
    cases hp
    exact absurd h (by decide)

theorem test_witness_SetHeadAndReadHead :
    (1#8).toNat < (active 0).config.headCount ∧ State.reset.station = .setup ∧ (1022 < 1023)
    ∧ (∃ r ∈ (waiting 0 .queued).plans.records, r.live = true ∧ r.head = (0#8).toNat)
    ∧ (∀ r ∈ (active 0).plans.records, r.live = true → r.head ≠ (3#8).toNat)
    ∧ (active 0).heads[(0#8).toNat]? = some goodHead ∧ (active 0).config.headCount ≤ (4#8).toNat := by
  refine ⟨by decide, rfl, by decide, ⟨record12 .queued, List.mem_singleton.2 rfl, rfl, rfl⟩, ?_, rfl, by decide⟩
  intro r hr
  exact absurd hr List.not_mem_nil

theorem keptEmpty (g h : Nat) (ws we : Time) : WindowKept g [] h ws we := fun _ hx => absurd hx List.not_mem_nil

theorem lowestEmpty : LowestFree [] 0 :=
  ⟨fun _ hr => absurd hr List.not_mem_nil, fun m hm => absurd hm (Nat.not_lt_zero m)⟩

theorem test_witness_PostAcceptsPlan :
    (active 288).station = .active ∧ (4#8).toNat ≤ 15 ∧ 1200 ≤ (active 288).config.lMax
    ∧ (active 288).plans.records = [] ∧ ((active 288).headRecord (0#8).toNat).state = .valid
    ∧ ¬ Fenced (active 288).restrictions.fence (4#8).toNat
    ∧ (active 288).store.activeBank.profile (4#8).toNat = some profile4
    ∧ profile4.lead + 1200 + profile4.tailAllowance ≤ 3584 ∧ timeDiff (at10 800) (active 288).now = 512
    ∧ WindowKept 0 (active 288).plans.records (0#8).toNat (at10 800) (at10 2350)
    ∧ LowestFree (active 288).plans.records 0 := by
  refine ⟨rfl, by decide, by decide, rfl, rfl, ?_, rfl, by decide, by decide, keptEmpty _ _ _ _, lowestEmpty⟩
  simp [Fenced, active, State.reset, Restrictions.powerOn]

theorem test_witness_PostRefusalsInOrder :
    State.reset.station ≠ .active ∧ (active 0).config.headCount ≤ (4#8).toNat ∧ 15 < (16#8).toNat
    ∧ 8 ≤ (List.replicate 8 (record12 .queued)).length
    ∧ (∃ r ∈ (waiting 0 .queued).plans.records, r.tag = 12)
    ∧ ((active 0).headRecord (1#8).toNat).state ≠ .valid ∧ Fenced ⟨.low, 5⟩ (4#8).toNat
    ∧ (active 0).store.activeBank.profile (5#8).toNat = none := by
  refine ⟨by decide, by decide, by decide, by decide, ⟨record12 .queued, List.mem_singleton.2 rfl, rfl⟩,
    by decide, ?_, rfl⟩
  exact Or.inl ⟨rfl, by decide⟩

theorem test_witness_CalibrateAcceptsPlan :
    (active 288).station = .active ∧ (active 288).restrictions.calibrate = false
    ∧ (2#8).toNat < (active 288).config.headCount ∧ (active 288).plans.records = []
    ∧ (active 288).config.calLength ≤ 1600 ∧ timeDiff (at10 8480) (active 288).now = 8192
    ∧ WindowKept 0 (active 288).plans.records (2#8).toNat (at10 8480) (at10 8880)
    ∧ LowestFree (active 288).plans.records 0 :=
  ⟨rfl, rfl, by decide, rfl, by decide, by decide, keptEmpty _ _ _ _, lowestEmpty⟩

theorem test_witness_CancelBeforeExecution :
    (0#8 = 0 ∨ 0#8 = (1 : Byte))
    ∧ (waiting 0 .queued).plans.find 12 = some (record12 .queued)
    ∧ (waiting 0 .claiming).plans.find 12 = some (record12 .claiming)
    ∧ (waiting 0 .granted).plans.find 12 = some (record12 .granted) := by decide

theorem test_witness_CancelDuringExecution :
    (playing 900 .preheat .preheat 0 0).plans.find 12 = some (record12 .preheat)
    ∧ (playing 900 .ready .preheat 0 1).plans.find 12 = some (record12 .ready)
    ∧ (playing 900 .ready .preheat 0 1).burst = none
    ∧ (burst12.report 4).cls = .clean ∧ (({ burst12 with q1 := 3 } : Burst).report 4).cls = .drift
    ∧ (playing 900 .tail .tail 0 0).plans.find 12 = some (record12 .tail)
    ∧ (waiting 0 .finished).plans.find 12 = some (record12 .finished) := by decide

theorem test_witness_QueryAndCollectReturnRecords :
    (waiting 0 .finished).plans.find 12 = some (record12 .finished)
    ∧ (∀ r ∈ (waiting 0 .finished).plans.records, r.tag ≠ 13)
    ∧ ({ (waiting 0 .finished).plans with finished := [12] } : PlanQueue).finished = [] ++ 12 :: []
    ∧ (record12 .finished).state = .finished ∧ (record12 .finished).releasePending = false
    ∧ (active 0).plans.finished = [] := by decide

theorem test_witness_StatusAndIdentify :
    State.reset.pins.rstn = true ∧ State.reset.peers.table.length = 8 := by decide

theorem oneRecord_queueSound (angle : Nat) (st : RecordState) : QueueSound (waiting angle st) :=
  ⟨by show 1 ≤ 8; decide, List.pairwise_singleton _ _⟩

theorem test_witness_WithdrawTakesCapabilitiesOrWidensFence :
    (active 0).station ≠ .halted ∧ (active 0).restrictions.load = false
    ∧ (loading 8 []).store.standbyBank.state = .loading
    ∧ (swapping (active 0) .swapPending 40).store.standbyBank.state = .swapPending
    ∧ QueueSound (waiting 500 .granted) ∧ (⟨.low, 16⟩ : Fence).extent ≤ 16
    ∧ Widening (waiting 500 .granted).restrictions.fence ⟨.low, 16⟩ ∧ Fenced ⟨.low, 16⟩ 4
    ∧ ¬ Fenced (waiting 500 .granted).restrictions.fence 4 := by
  refine ⟨by decide, rfl, rfl, rfl, oneRecord_queueSound _ _, by decide, ?_, ?_, ?_⟩ <;>
    simp [Widening, Fenced, waiting, active, State.reset, Restrictions.powerOn]

theorem test_witness_RestartClearsSchedule :
    (active 0).station = .active ∧ (active 0).store.standbyBank.state = .empty
    ∧ ({ loading 8 [] with station := .active } : State).store.standbyBank.state = .loading
    ∧ (swapping (active 0) .swapPending 40).store.standbyBank.state = .swapPending
    ∧ State.reset.station = .setup := by decide

theorem test_witness_UnsoundRequestsAreRefused :
    State.reset.store.standbyBank.state ≠ .loading ∧ (loading 8 []).store.standbyBank.state = .loading
    ∧ (loading 8 []).station ≠ .halted ∧ ([] : List Byte).length ≠ 19 ∧ ([0] : List Byte).length ≠ 0
    ∧ 64 < (List.replicate 65 (0 : Byte)).length := by decide

theorem test_witness_RstnLowHoldsThePart :
    State.reset.pins.rstn = true ∧ (after .rstnFalls State.reset).pins.rstn = false := by decide

theorem test_witness_PulseAndHoldMoveTheClock :
    State.reset.station = .setup ∧ (active 0).station = .active ∧ (active 0).peers.requester = false
    ∧ (active 0).peers.reRequest = false ∧ (active 0).peers.quiet = none
    ∧ (∀ e ∈ (active 0).peers.table, e.state = .joining ∨ e.state = .active → e.lastHeard < 3)
    ∧ (active 0).peers.awaited = [] ∧ (active 4000).clock.valid = true ∧ (active 4000).clock.hold = false
    ∧ (∀ e ∈ (active 4000).timeEvents, timeBefore e.1 ((active 4000).clock.revolution ++ (4095#12)) = false) := by
  decide

theorem test_witness_SpindleLossClearsTheSharedView :
    let s : State := { swapping (waiting 4095 .granted) .swapPending 40 with
      clock := { clock10 4095 with hold := true }, burst := some { burst12 with q0 := 15 } }
    s.clock.valid = true ∧ s.clock.hold = true ∧ s.station ≠ .halted ∧ QueueSound s ∧ StoreSound s
    ∧ Distrusts s goodHead (({ burst12 with q0 := 15 } : Burst).report 4)
    ∧ s.store.standbyBank.state = .swapPending ∧ s.heads[burst12.head]? = some goodHead
    ∧ (({ burst12 with q0 := 15 } : Burst).report 4).cls = .loss
    ∧ ({ s with station := .halted } : State).station = .halted :=
  ⟨rfl, rfl, by decide, oneRecord_queueSound 4095 .granted, swapping_storeSound 4095 .granted, Or.inl rfl, rfl,
    rfl, rfl, rfl⟩

/-- A station whose peer 2 has been silent for three revolutions. -/
def silent : State :=
  { active 4000 with peers := { (active 0).peers with
      table := (active 0).peers.table.set 2 (peer .active 3), requester := true, sync := .resyncing,
      awaited := [2], requesterPulses := 1, quiet := some 1, quietPulses := 1 } }

theorem test_witness_TimeoutsActAtTheirPulse :
    silent.pins.rstn = true ∧ silent.peers.table.length = 8 ∧ silent.station = .active
    ∧ (silent.peers.entry 2).state = .active ∧ (silent.peers.entry 2).lastHeard = 3
    ∧ silent.peers.requester = true ∧ silent.peers.requesterPulses = 1 ∧ silent.link.onLine = none
    ∧ silent.peers.quiet = some 1 ∧ silent.peers.quietPulses = 1
    ∧ ({ active 0 with station := .listen,
                       peers := { PeerBlock.cleared 0 with listenPulses := 1 } } : State).station = .listen := by
  decide

/-- One pulse that is the second of a requester and of QUIET and the fourth silent one of peer 2, and one that is
the last alone (R145, R155, R157, R159). -/
theorem test_pulses :
    let lone : State := { silent with peers := { silent.peers with requesterPulses := 0, reRequest := true } }
    after (.resyncTimeout 7) silent = GivenUp (Pulsed silent 7)
    ∧ after (.indexPulse 7) silent = GivenUp (Pulsed silent 7)
    ∧ after (.peerLost 2 7) lone = Pulsed lone 7
    ∧ (Pulsed lone 7).link.queue = [.syncDone, .syncRequest, .beacon] ∧ (Pulsed lone 7).peers.quiet = none := by
  decide

theorem test_witness_TimesOut : TimesOut silent ∧ ¬ TimesOut (active 0) :=
  ⟨⟨rfl, by decide, fun _ _ _ h => by cases h⟩, fun h => by cases h.1⟩

/-- Two GRANTED records whose windows, 3000 to 3400 and 800 to 2350, an early pulse has passed. -/
def passed : State :=
  { active 0 with
    clock := { clock10 0 with revolution := 11 },
    plans := { records := [{ calRecord .granted with windowStart := at10 3000, windowEnd := at10 3400 },
                           record12 .granted], finished := [], accepted := 2 } }

/-- Windows that one pulse has passed open in the order of their times, each plan taken to its own deadline before
the next opens (R4, R68, R73, log 25). -/
theorem test_passed_windows :
    let opened := after (.writeWindowOpens 12 false) passed
    passed.dueEvent = some (.writeWindowOpens 12 false) ∧ after (.calWindowOpens 5 false) passed = passed
    ∧ opened.dueEvent = some .writeStartDeadline
    ∧ (after .writeStartDeadline opened).dueEvent = some (.calWindowOpens 5 false) := by decide

theorem playing_executing (angle : Nat) (st : RecordState) (ph : Phase) (g k : Nat) :
    Executing (playing angle st ph g k) (record12 st) := by
  refine ⟨rfl, by simp [playing, waiting, active], rfl, ?_⟩
  simp [playing, waiting, PlanQueue.find, record12]

theorem test_witness_WgateRiseByPlanState :
    (playing 995 .ready .preheat 0 1).pins.wgate = false
    ∧ Executing (playing 995 .ready .preheat 0 1) (record12 .ready)
    ∧ (playing 995 .ready .preheat 0 1).seq.profile = some profile4
    ∧ (playing 995 .ready .preheat 0 1).seq.captured = some { threshold := 180, write := 660, trim := -2 }
    ∧ Executing (playing 820 .preheat .preheat 0 0) (record12 .preheat)
    ∧ Executing (playing 820 (.paused .preheat) .preheat 0 0) (record12 (.paused .preheat))
    ∧ Executing (playing 995 (.paused .ready) .preheat 0 1) (record12 (.paused .ready))
    ∧ Executing (playing 1900 .tail .tail 0 0) (record12 .tail) ∧ (active 0).seq.current = none :=
  ⟨rfl, playing_executing _ _ _ _ _, rfl, rfl, playing_executing _ _ _ _ _, playing_executing _ _ _ _ _,
    playing_executing _ _ _ _ _, playing_executing _ _ _ _ _, rfl⟩

/-- A state with both gates given. -/
def gates (s : State) (w g : Bool) : State := { s with pins := { s.pins with wgate := w, sgate := g } }

theorem gates_executing {s : State} {r : Record} (w g : Bool) (h : Executing s r) : Executing (gates s w g) r := h

theorem test_witness_WgateFallEndsTheWrite :
    (gates (playing 1900 .writing .write 0 0) true false).pins.wgate = true
    ∧ Executing (gates (playing 1900 .writing .write 0 0) true false) (record12 .writing)
    ∧ (gates (playing 1900 .writing .write 0 0) true false).seq.profile = some profile4
    ∧ profile4.tail = 2 :: [] ∧ (gates (active 0) true false).seq.current = none
    ∧ Executing (gates (playing 1900 .tail .tail 0 0) true false) (record12 .tail)
    ∧ ({ profile4 with tail := [] } : Profile).tail = [] ∧ (record12 .writing).cancel ≠ some .immediate
    ∧ NoCorrection (playing 1900 .writing .write 0 0) none := by
  refine ⟨rfl, gates_executing _ _ (playing_executing _ _ _ _ _), rfl, rfl, rfl,
    gates_executing _ _ (playing_executing _ _ _ _ _), rfl, by decide, rfl, ?_⟩
  intro x hx
  cases hx

theorem test_witness_SgatePausesAndResumes :
    (playing 1300 .writing .write 0 0).pins.sgate = false
    ∧ Executing (playing 1300 .writing .write 0 0) (record12 .writing)
    ∧ (playing 1300 .writing .write 0 0).seq.firstStep = false
    ∧ Executing (gates (playing 995 .ready .preheat 0 1) true false) (record12 .ready)
    ∧ Executing (gates (playing 995 (.paused .ready) .preheat 0 1) false true) (record12 (.paused .ready))
    ∧ Executing (gates (playing 810 (.paused .preheat) .preheat 0 0) false true) (record12 (.paused .preheat))
    ∧ profile4.preheat[0]? = some 0 ∧ 0 + 1 < (bank4.descriptor 0).count
    ∧ Executing (gates (playing 1340 (.paused .writing) .write 0 0) true true) (record12 (.paused .writing))
    ∧ profile4.write = 1 ∧ 0 + 1 < (bank4.descriptor 1).count :=
  ⟨rfl, playing_executing _ _ _ _ _, rfl, gates_executing _ _ (playing_executing 995 _ _ _ _),
    gates_executing _ _ (playing_executing 995 _ _ _ _), gates_executing _ _ (playing_executing 810 _ _ _ _), rfl,
    by decide, gates_executing _ _ (playing_executing 1340 _ _ _ _), rfl, by decide⟩

theorem test_witness_EventsThatEndThePlan :
    Executing (playing 1064 .ready .preheat 0 1) (record12 .ready)
    ∧ NoCorrection (playing 1064 .ready .preheat 0 1) none ∧ (record12 .ready).executing = true
    ∧ timeBefore (playing 1064 .ready .preheat 0 1).now (timePlus (at10 1000) 64) = false
    ∧ timeDiff (timePlus (at10 1000) 64) (timeMinus (at10 2350) 150) ≤ 8192
    ∧ -8192 ≤ timeDiff (timePlus (at10 1000) 64) (timeMinus (at10 2350) 150)
    ∧ Executing (playing 2350 .tail .tail 0 0) (record12 .tail)
    ∧ timeBefore (playing 2350 .tail .tail 0 0).now (at10 2350) = false := by
  refine ⟨playing_executing _ _ _ _ _, ⟨rfl, ?_⟩, rfl, by decide, by decide, by decide,
    playing_executing _ _ _ _ _, by decide⟩
  intro x hx
  cases hx

theorem test_witness_WindowOpensForGrantedRecord :
    (waiting 800 .granted).seq.current = none
    ∧ (waiting 800 .granted).plans.find 12 = some (record12 .granted)
    ∧ (waiting 800 .granted).store.activeBank.profile 4 = some profile4
    ∧ (waiting 800 .granted).heads[0]? = some goodHead
    ∧ timeBefore (waiting 800 .granted).now (timeMinus (at10 1000) profile4.lead) = false
    ∧ (waiting 800 .granted).pins.sgate = false ∧ (gates (waiting 800 .granted) false true).pins.sgate = true
    ∧ (calRecord .granted).kind = .cal
    ∧ timeBefore (active 1000).now (calRecord .granted).windowStart = false := by decide

theorem test_witness_OpensInTurn :
    OpensInTurn (waiting 800 .granted) (timeMinus (at10 1000) profile4.lead) ∧ OpensInTurn passed (at10 800)
    ∧ ¬ OpensInTurn passed (at10 3000) := by
  refine ⟨(opensFirst_iff _ _).1 (by decide), (opensFirst_iff _ _).1 (by decide), ?_⟩
  rw [← opensFirst_iff]
  decide

theorem test_witness_DeadlinesOfQueuedAndWriting :
    (waiting 288 .queued).plans.find 12 = some (record12 .queued)
    ∧ timeBefore (waiting 288 .queued).now (timeMinus (at10 800) 512) = false
    ∧ Executing (playing 2200 .writing .write 0 0) (record12 .writing)
    ∧ timeBefore (playing 2200 .writing .write 0 0).now (timeMinus (at10 2350) profile4.tailAllowance) = false :=
  ⟨by decide, by decide, playing_executing _ _ _ _ _, by decide⟩

theorem test_witness_ProfileStepAdvancesPlay :
    Executing (playing 805 .preheat .preheat 0 0) (record12 .preheat)
    ∧ profile4.preheat[0]? = some 0 ∧ 0 + 1 < (bank4.descriptor 0).count
    ∧ (bank4.descriptor 0).count ≤ 1 + 1 ∧ profile4.preheat.length = 0 + 1
    ∧ (record12 .preheat).cancel = none
    ∧ Executing { playing 1200 .writing .write 0 2 with burst := some burst12 } (record12 .writing)
    ∧ Executing (playing 1930 .tail .tail 0 0) (record12 .tail) ∧ profile4.tail[0]? = some 2
    ∧ (bank4.descriptor 2).count ≤ 0 + 1 ∧ profile4.tail.length = 0 + 1 :=
  ⟨playing_executing _ _ _ _ _, rfl, by decide, by decide, rfl, rfl, playing_executing 1200 .writing .write 0 2,
    playing_executing _ _ _ _ _, rfl, by decide, rfl⟩

theorem searching_executing (angle : Nat) (x : Search) : Executing (searching angle x) (calRecord .calibrating) := by
  refine ⟨rfl, by simp [searching, active], rfl, ?_⟩
  simp [searching, PlanQueue.find, calRecord]

theorem test_witness_CalibrationStepSearches :
    Executing (searching 1020 (searchAt 1 0 0)) (calRecord .calibrating)
    ∧ SearchSound (searchAt 1 0 0) ∧ SearchSound (searchAt 9 1020 0) ∧ SearchSound (searchAt 10 1022 0)
    ∧ SearchSound (searchAt 11 1023 0) ∧ SearchSound (searchAt 20 180 478) ∧ SearchSound (searchAt 20 1023 0)
    ∧ (searching 1020 (searchAt 1 0 0)).burst = none
    ∧ timeBefore (searching 1020 (searchAt 1 0 0)).now (timePlus (at10 1000) (1 * (400 / 20))) = false
    ∧ timeBefore (searching 1400 (searchAt 20 180 478)).now (timePlus (at10 1000) (20 * (400 / 20))) = false
    ∧ (searching 1400 (searchAt 20 180 478)).heads[2]? = some HeadRecord.powerOn
    ∧ (searching 1400 (searchAt 20 180 478)).store.standbyBank.state ≠ .swapPending := by
  refine ⟨searching_executing _ _, ?_, ?_, ?_, ?_, ?_, ?_, rfl, by decide, by decide, rfl, by decide⟩ <;>
    simp [SearchSound, searchAt]

theorem test_witness_FrameStartTakesFirstEligibleEntry :
    let s : State := { active 1000 with link := { Link.powerOn with
      queue := [.claim 1 .write (at10 1511) (at10 1600) 5, .claim 2 .write (at10 1512) (at10 1600) 5] } }
    WaitEnded s 32 ∧ ¬ WaitEnded s 31 ∧ s.station = .active
    ∧ s.link.queue = [.claim 1 .write (at10 1511) (at10 1600) 5]
        ++ .claim 2 .write (at10 1512) (at10 1600) 5 :: []
    ∧ HeldBack s (.claim 1 .write (at10 1511) (at10 1600) 5)
    ∧ ¬ HeldBack s (.claim 2 .write (at10 1512) (at10 1600) 5)
    ∧ (∀ e : TxEntry, (∀ n k ws we l, e ≠ .claim n k ws we l) → ¬ HeldBack s e)
    ∧ State.reset.station = .setup := by
  refine ⟨⟨rfl, rfl, by decide, by decide⟩, ?_, rfl, rfl, ?_, ?_, ?_, rfl⟩
  · rintro ⟨_, _, _, h⟩
    exact absurd h (by decide)
  · exact ⟨1, .write, at10 1511, at10 1600, 5, rfl, Or.inl (by decide)⟩
  · rintro ⟨n, k, ws, we, l, h, h2 | ⟨_, h2 | h2⟩⟩
    · cases h; exact absurd h2 (by decide)
    · exact absurd rfl h2
    · exact absurd rfl h2
  · rintro e he ⟨n, k, ws, we, l, h, _⟩
    exact he n k ws we l h

/-- An ACTIVE station whose CLAIM is on the line at its record. -/
def claimOnLine (level : Nat) : State :=
  { sending (.claim 1 .write (at10 1600) (at10 2600) level)
      (.claim (at10 1000) 1 .write (at10 1600) (at10 2600) level) with
    plans := { records := [{ record12 .claiming with windowStart := at10 1600 }], finished := [], accepted := 1 } }

theorem emptyTable_sound {s : State} (h : s.table = []) : TableSound s := by
  refine ⟨by simp [h], by simp [h], by simp [h], ?_, fun _ => h⟩
  intro t
  rw [h]
  exact Nat.zero_le _

theorem emptyTable_limits (n : Station) (number : Nat) (ws we : Time) (level : Nat) (stamp : Time)
    (h1 : number ≤ 15) (h2 : 1 ≤ level) (h3 : 512 ≤ timeDiff ws stamp ∧ timeDiff ws stamp ≤ 8192)
    (h4 : 1 ≤ timeDiff we ws ∧ timeDiff we ws ≤ 3584) : ClaimInLimits [] n stamp number ws we level :=
  ⟨h1, h2, h3.1, h3.2, h4.1, h4.2, fun _ he => absurd he List.not_mem_nil⟩

theorem emptyTable_room (bTotal level : Nat) (stamp ws we : Time) (h : level ≤ bTotal) :
    Room [] bTotal stamp ws we level :=
  ⟨by show 0 < 32; decide, fun t _ => by
    show 0 + level ≤ bTotal
    omega⟩

theorem test_witness_TransmissionCompletesWithLoopback :
    (claimOnLine 50).link.queue = .claim 1 .write (at10 1600) (at10 2600) 50 :: []
    ∧ QueueSound (claimOnLine 50) ∧ TableSound (claimOnLine 50)
    ∧ ClaimInLimits (claimOnLine 50).table 0 (at10 1000) 1 (at10 1600) (at10 2600) 50
    ∧ Room (claimOnLine 50).table 100 (at10 1000) (at10 1600) (at10 2600) 50
    ∧ timeBefore (claimOnLine 50).now (at10 1600) = true
    ∧ ¬ Room (claimOnLine 101).table 100 (at10 1000) (at10 1600) (at10 2600) 101
    ∧ timeDiff (at10 9192) (timePlus (at10 1000) 8192) ≤ 0
    ∧ (sending .syncDone (.syncDone (at10 1000) 0)).link.queue = .syncDone :: []
    ∧ silent.peers.requester = true
    ∧ ({ sending .join (.join (at10 1000) 7) with station := .joining } : State).station = .joining := by
  refine ⟨rfl, ⟨by show 1 ≤ 8; decide, List.pairwise_singleton _ _⟩, emptyTable_sound rfl,
    emptyTable_limits _ _ _ _ _ _ (by decide) (by decide) (by decide) (by decide),
    emptyTable_room _ _ _ _ _ (by decide), by decide, ?_, by decide, rfl, rfl, rfl⟩
  rintro ⟨_, h⟩
  exact absurd (h (at10 1600) (by decide)) (by decide)

theorem test_witness_CollisionCountsAndHalts :
    (claimOnLine 50).link.collisions < 3 ∧ QueueSound (claimOnLine 50)
    ∧ { record12 .claiming with windowStart := at10 1600 } ∈ (claimOnLine 50).plans.records
    ∧ ({ (claimOnLine 50) with link := { (claimOnLine 50).link with collisions := 3 } } : State).link.collisions
        = 3
    ∧ (sending .beacon (.beacon (at10 1000) 0 0 .inSync)).link.queue = .beacon :: [] :=
  ⟨by decide, ⟨by show 1 ≤ 8; decide, List.pairwise_singleton _ _⟩, List.mem_singleton.2 rfl, rfl, rfl⟩

theorem test_witness_FrameErrorDiscardsUntilIdle :
    (active 0).station = .active ∧ (active 0).link.onLine = none ∧ (active 0).link.receiver = .idle
    ∧ (active 0).peers.requester = false ∧ silent.peers.requester = true
    ∧ ({ Link.powerOn with receiver := .waitingIdle } : Link).receiver = .waitingIdle := by decide

theorem test_witness_OwnNumberFrameIsAClash :
    (active 0).pins.rstn = true ∧ (active 0).link.onLine = none ∧ (active 0).link.receiver = .idle
    ∧ (Instr.syncRequest 0 = .syncRequest (active 0).number) ∧ (active 0).station = .active
    ∧ ({ active 0 with station := .listen } : State).station = .listen := by decide

theorem active_taking (angle : Nat) : TakingFrames (active angle) := ⟨rfl, Or.inr rfl, rfl, Or.inl rfl⟩

theorem test_witness_PeerClaimAndReleaseChangeTheTable :
    TakingFrames (active 1000) ∧ (1 : Station) ≠ (active 1000).number ∧ AdoptionClosed (active 1000)
    ∧ TableSound (active 1000) ∧ (active 1000).peers.requester = false
    ∧ ((active 1000).peers.entry 1).state = .active
    ∧ ClaimInLimits (active 1000).table 1 (at10 1000) (15#8).toNat (at10 9192) (at10 12776) (1#8).toNat
    ∧ Room (active 1000).table 100 (at10 1000) (at10 9192) (at10 12776) (1#8).toNat
    ∧ ¬ Room (active 1000).table 100 (at10 1000) (at10 9192) (at10 12776) (101#8).toNat
    ∧ ¬ ClaimInLimits (active 1000).table 1 (at10 1000) (16#8).toNat (at10 9192) (at10 12776) (1#8).toNat := by
  refine ⟨active_taking _, by decide, Or.inl rfl, emptyTable_sound rfl, rfl, rfl,
    emptyTable_limits _ _ _ _ _ _ (by decide) (by decide) (by decide) (by decide),
    emptyTable_room _ _ _ _ _ (by decide), ?_, ?_⟩
  · rintro ⟨_, h⟩
    exact absurd (h (at10 9192) (by decide)) (by decide)
  · rintro ⟨h, _⟩
    exact absurd h (by decide)

/-- A RELEASE with a protocol error, at a requester, from a sender that is ABSENT (R24, R153, R157). -/
theorem test_peerRelease_error :
    TakingFrames silent ∧ (silent.peers.entry 3).state = .absent ∧ 15 < (16#8).toNat
    ∧ 0 < timeDiff (at10 9193) (timePlus (at10 1000) 8192)
    ∧ after (.release 3 (at10 1000) 16 (at10 1200) false) silent = FrameFrom silent 3 [] true
    ∧ after (.release 3 (at10 1000) 1 (at10 9193) false) (active 1000) = FrameFrom (active 1000) 3 [] true
    ∧ (FrameFrom silent 3 [] true).peers.sync = .desync ∧ (FrameFrom silent 3 [] true).peers.requester = false
    ∧ ((FrameFrom silent 3 [] true).peers.entry 3).state = .active :=
  ⟨⟨rfl, Or.inr rfl, rfl, Or.inl rfl⟩, by decide⟩

theorem test_witness_HelpersAnnounceAndKeepQuiet :
    TakingFrames (active 1000) ∧ AdoptionClosed (active 1000) ∧ (active 1000).peers.table.length = 8
    ∧ TakingFrames silent ∧ silent.peers.requester = true
    ∧ AdoptionClosed { active 1000 with station := .joining, peers := { (active 0).peers with joinSent := true } }
    ∧ ((active 1000).peers.entry 1).state = .active :=
  ⟨active_taking _, Or.inl rfl, rfl, ⟨rfl, Or.inr rfl, rfl, Or.inl rfl⟩, rfl, Or.inr ⟨rfl, Or.inl rfl⟩, rfl⟩

theorem test_witness_BeaconAndSyncDoneCompareTables :
    TakingFrames (active 1000) ∧ AdoptionClosed (active 1000)
    ∧ ((active 1000).peers.entry 3).state = .absent ∧ ((active 1000).peers.entry 1).state = .active
    ∧ ({ active 30 with station := .listen, peers := { PeerBlock.cleared 0 with listenPulses := 1 } }
        : State).peers.sync = .none
    ∧ ({ PeerBlock.cleared 0 with listenPulses := 1 } : PeerBlock).adopted = false :=
  ⟨active_taking _, Or.inl rfl, rfl, rfl, rfl, rfl⟩

theorem test_witness_AnnounceIsInsertedOrCompared :
    TakingFrames silent ∧ silent.peers.requester = true ∧ (∀ e ∈ silent.table, EntrySound e)
    ∧ Insertable (silent.table ++ ([] : List AnnounceEntry).map (EntryOf 1)) silent.config.bTotal 1
        ⟨15, 1, at10 0, at10 3584, 100⟩
    ∧ ¬ Insertable (silent.table ++ ([] : List AnnounceEntry).map (EntryOf 1)) silent.config.bTotal 1
        ⟨16, 1, at10 0, at10 3584, 100⟩
    ∧ (active 0).peers.requester = false ∧ ((active 0).peers.entry 1).state = .active := by
  refine ⟨⟨rfl, Or.inr rfl, rfl, Or.inl rfl⟩, rfl, fun _ he => absurd he List.not_mem_nil, ?_, ?_, rfl, rfl⟩
  · refine ⟨fun _ he => absurd he List.not_mem_nil, by decide, Or.inr rfl, by decide, by decide, by decide,
      by show 0 < 32; decide, fun t _ => ?_⟩
    show 0 + 100 ≤ 100
    decide
  · rintro ⟨_, h, _⟩
    exact absurd h (by decide)

/-! ### The clauses on refusals, events, reports, rows and bits -/

theorem swapping_due (angle : Nat) (st : RecordState) :
    SwapDue (swapping (waiting angle st) .swapPending 40) := ⟨rfl, fun h => (by cases h), rfl, rfl⟩

/-- Two events that are outstanding and reached: a transmit deadline, and a write-start deadline (R46, R73). -/
theorem test_witness_ClockEvent :
    ClockEvent (waiting 400 .queued) (at10 288) (.transmitDeadline 12)
    ∧ 0 ≤ timeDiff (waiting 400 .queued).now (at10 288) ∧ ¬ SwapDue (waiting 400 .queued)
    ∧ ClockEvent (playing 1100 .ready .preheat 0 1) (at10 1064) .writeStartDeadline
    ∧ 0 ≤ timeDiff (playing 1100 .ready .preheat 0 1).now (at10 1064)
    ∧ SwapDue (swapping (waiting 500 .granted) .swapPending 40) := by
  refine ⟨Or.inl ⟨rfl, by decide, Or.inl ⟨record12 .queued, List.mem_singleton.2 rfl, rfl, rfl, by decide⟩⟩,
    by decide, ?_, Or.inl ⟨rfl, by decide, Or.inr (Or.inr ⟨12, record12 .ready, rfl, by decide, Or.inl
      ⟨profile4, rfl, Or.inr (Or.inl rfl), rfl, by decide⟩⟩)⟩, by decide, swapping_due 500 .granted⟩
  rintro ⟨_, _, h, _⟩
  cases h

/-- Records that every POST check but one lets through, by the result (Table 3-4, checks 8 to 12). -/
theorem test_post_window_checks :
    let s : State := { waiting 288 .queued with config := { (active 0).config with gMin := 100 } }
    [([13, 0, 4] ++ byte3 (4096 * 10 + 2600) ++ byte2 2001), [13, 0, 4] ++ byte3 (4096 * 10 + 999) ++ byte2 100,
      [13, 0, 4] ++ byte3 (4096 * 10 + 8681) ++ byte2 100, [13, 0, 4] ++ byte3 (4096 * 10 + 2000) ++ byte2 1200,
      [13, 0, 4] ++ byte3 (4096 * 10 + 2600) ++ byte2 1200].map
        (fun p => (after (.post p) s).reply.map Reply.result)
      = [some .tooLong, some .tooSoon, some .tooFar, some .ownOverlap, some .headGap] := by decide

/-- Record tag 12 waiting at 288, the head gap configured as 100. -/
def gapped : State := { waiting 288 .queued with config := { (active 0).config with gMin := 100 } }

theorem forall_record12 {st : RecordState} {P : Record → Prop} (h : P (record12 st)) :
    ∀ r ∈ [record12 st], P r := by
  intro r hr
  rcases List.mem_singleton.1 hr with rfl
  exact h

theorem gapped_gap (ws we : Time) (h0 : windowsOverlap ws we (at10 800) (at10 2350) = false)
    (h1 : timeBefore ws (at10 2350) = false) (h2 : timeDiff ws (at10 2350) < 100) :
    ¬ WindowKept 100 gapped.plans.records 0 ws we
    ∧ ¬ ∃ x ∈ gapped.plans.records, x.live = true ∧ windowsOverlap ws we x.windowStart x.windowEnd = true := by
  refine ⟨fun h => ?_, ?_⟩
  · have := ((h (record12 .queued) (List.mem_singleton.2 rfl) rfl).2 rfl).2 h1
    have e : timeDiff ws (record12 .queued).windowEnd = timeDiff ws (at10 2350) := rfl
    rw [e] at this
    have h3 : (100 : Int) ≤ timeDiff ws (at10 2350) := this
    omega
  · rintro ⟨x, hx, _, h⟩
    rcases List.mem_singleton.1 hx with rfl
    have e : windowsOverlap ws we (at10 800) (at10 2350) = true := h
    rw [h0] at e
    cases e

/-- The last row of Table 3-4: all before it fail. Head gap 50 after the window of record tag 12. -/
theorem test_witness_PostRefusalsLastRows :
    (∀ p, gapped.store.activeBank.profile (4#8).toNat = some p → 200 = p.lead ∧ 150 = p.tailAllowance)
    ∧ timeMinus (BitVec.ofNat 20 43560) 200 = at10 2400
    ∧ timePlus (BitVec.ofNat 20 43560) (1200 + 150) = at10 3950
    ∧ FirstOf
      [(gapped.station ≠ .active, Result.wrongState),
       (gapped.config.headCount ≤ (0#8).toNat ∨ 15 < (4#8).toNat ∨ 1048575 < 43560 ∨ 1200 = 0, .badArgument),
       (8 ≤ gapped.plans.records.length, .queueFull),
       (∃ r ∈ gapped.plans.records, r.tag = 13, .tagInUse),
       ((gapped.headRecord (0#8).toNat).state ≠ .valid, .headNotReady),
       (Fenced gapped.restrictions.fence (4#8).toNat, .fenced),
       (gapped.store.activeBank.profile (4#8).toNat = none, .noProfile),
       (gapped.config.lMax < 1200 ∨ 3584 < 200 + 1200 + 150, .tooLong),
       (timeDiff (at10 2400) gapped.now < 512, .tooSoon),
       (8192 < timeDiff (at10 2400) gapped.now, .tooFar),
       (∃ x ∈ gapped.plans.records, x.live = true ∧
          windowsOverlap (at10 2400) (at10 3950) x.windowStart x.windowEnd = true, .ownOverlap),
       (¬ WindowKept gapped.config.gMin gapped.plans.records (0#8).toNat (at10 2400) (at10 3950), .headGap)]
      .headGap
    ∧ FirstOf
      [(gapped.station ≠ .active, Result.wrongState),
       (gapped.restrictions.calibrate = true, .withdrawn),
       (gapped.config.headCount ≤ (0#8).toNat ∨ 1048575 < 43360, .badArgument),
       (8 ≤ gapped.plans.records.length, .queueFull),
       (∃ r ∈ gapped.plans.records, r.tag = 13, .tagInUse),
       (∃ r ∈ gapped.plans.records, r.live = true ∧ r.kind = .cal, .busy),
       (3584 < gapped.config.calLength, .tooLong),
       (timeDiff (at10 2400) gapped.now < 512, .tooSoon),
       (8192 < timeDiff (at10 2400) gapped.now, .tooFar),
       (∃ x ∈ gapped.plans.records, x.live = true ∧
          windowsOverlap (at10 2400) (at10 2800) x.windowStart x.windowEnd = true, .ownOverlap),
       (¬ WindowKept gapped.config.gMin gapped.plans.records (0#8).toNat (at10 2400) (at10 2800), .headGap)]
      .headGap := by
  have hp := gapped_gap (at10 2400) (at10 3950) (by decide) (by decide) (by decide)
  have hc := gapped_gap (at10 2400) (at10 2800) (by decide) (by decide) (by decide)
  have ht : ¬ ∃ r ∈ gapped.plans.records, r.tag = 13 := by decide
  have hf : ¬ Fenced gapped.restrictions.fence (4#8).toNat := by
    simp [Fenced, gapped, waiting, active, State.reset, Restrictions.powerOn]
  refine ⟨?_, by decide, by decide, ?_, ?_⟩
  · intro p h; cases h; exact ⟨rfl, rfl⟩
  · simp only [firstOf_cons, firstOf_nil]
    refine Or.inr ⟨by decide, Or.inr ⟨by decide, Or.inr ⟨by decide, Or.inr ⟨ht, Or.inr ⟨by decide, Or.inr ⟨hf,
      Or.inr ⟨?_, Or.inr ⟨by decide, Or.inr ⟨by decide, Or.inr ⟨by decide, Or.inr ⟨hp.2,
        Or.inl ⟨hp.1, by trivial⟩⟩⟩⟩⟩⟩⟩⟩⟩⟩⟩⟩
    intro h; cases h
  · simp only [firstOf_cons, firstOf_nil]
    exact Or.inr ⟨by decide, Or.inr ⟨by decide, Or.inr ⟨by decide, Or.inr ⟨by decide, Or.inr ⟨ht, Or.inr ⟨by decide,
      Or.inr ⟨by decide, Or.inr ⟨by decide, Or.inr ⟨by decide, Or.inr ⟨hc.2, Or.inl ⟨hc.1, by trivial⟩⟩⟩⟩⟩⟩⟩⟩⟩⟩⟩

/-- A collision at a stop bit is a framing fault at that byte too (R134, R137). -/
theorem test_collision_at_stop_bit :
    let s : State := { claimOnLine 50 with link := { (claimOnLine 50).link with bit := 9 } }
    (s.lineBit false false).pending = [.collision, .linkFrameError false]
    ∧ ({ s with link := { s.link with bit := 2 } } : State).lineBit false false
      = { s with pending := [.collision],
                 link := { s.link with bit := 2, receiver := .receiving, byteBits := some (0, [false, false]),
                                       lineHigh := false, idleCount := 0, assembly := [] } } := by decide

theorem test_witness_LinkBits :
    Link.powerOn.byteBits = none ∧ Link.powerOn.lineHigh = true ∧ Link.powerOn.postSend = false
    ∧ (active 0).link.onLine = none
    ∧ (claimOnLine 50).link.onLine
      = some ⟨.claim (at10 1000) 1 .write (at10 1600) (at10 2600) 50, false⟩
    ∧ (receivingLast [0x6A, 0x03, 0x05, 0x00, 0xF8] 0x95).link.assembly.length = 5 + (0x00#8).toNat
    ∧ (claimOnLine 50).driven = false ∧ 9 < (claimOnLine 50).frameBits.length := by decide

/-- The trailer in its place ends a frame; the same byte in another place does not (O48). -/
theorem test_witness_EndsFrame :
    EndsFrame (receivingLast [0x6A, 0x03, 0x05, 0x00, 0xF8] 0x95).link 0x95
    ∧ ¬ EndsFrame (receivingLast [0x6A] 0x95).link 0x95 ∧ EndsFrame Link.powerOn 0x95 :=
  ⟨⟨rfl, fun _ => rfl⟩, fun h => absurd (h.2 rfl) (by decide), rfl, fun h => by cases h⟩

/-- A load record of 3 samples, 1 descriptor and 1 profile record. -/
def load1 (received : Nat) (item : List Byte) : Load :=
  { Load.begin 3 1 1 with received := received, item := item }

theorem load1_sound (received : Nat) (item : List Byte) (h : received ≤ 65535) :
    LoadSound (load1 received item) := by
  refine ⟨?_, ?_, ?_, ?_, ?_, h⟩ <;> simp [Load.begin, load1]

/-- Bytes 14 j + 13 of the profile records, within an item, and past the total (R102, R103). -/
theorem test_witness_ProfileRecord :
    LoadSound (load1 17 [4, 0x11, 0, 0, 0, 0, 0, 0, 0, 90, 40, 200, 96]) ∧ 0 < (load1 17 []).p
    ∧ (load1 17 []).received = 4 * 1 + 14 * 0 + 13
    ∧ ([4#8, 0x11#8, 0#8, 0#8, 0#8, 0#8, 0#8, 0#8, 0#8, 90#8, 40#8, 200#8, 96#8] ++ [9#8]).length = 14
    ∧ (load1 2 [0, 0]).received < 4 * (load1 2 [0, 0]).d ∧ (load1 2 [0, 0]).item.length < 3
    ∧ (4 * 1 ≤ (load1 5 [4]).received ∧ (load1 5 [4]).item.length < 13)
    ∧ 4 * 1 + 14 * 1 + 3 ≤ (load1 65535 []).received ∧ LoadSound (load1 65535 []) :=
  ⟨load1_sound _ _ (by decide), by decide, rfl, rfl, by decide, by decide, by decide, by decide,
    load1_sound _ _ (by decide)⟩

/-- Refusals that only a later check makes: what the state and the request then meet. -/
theorem test_witness_RefusalRows :
    (swapping (active 0) .swapPending 40).station = .active
    ∧ (swapping (active 0) .swapPending 40).store.standbyBank.state = .swapPending
    ∧ (active 0).store.standbyBank.state ≠ .loading ∧ (active 0).store.standbyBank.state ≠ .ready
    ∧ (∃ r ∈ (waiting 0 .queued).plans.records, r.live = true ∧ r.head = (0#8).toNat)
    ∧ (playing 1930 .tail .tail 0 0).plans.find 12 = some (record12 .tail)
    ∧ (∀ r ∈ (active 0).plans.records, r.tag ≠ 12) ∧ (active 0).plans.finished = []
    ∧ ¬ Widening ⟨.low, 2⟩ ⟨.low, 1⟩
    ∧ ({ active 0 with station := .halted } : State).station = .halted := by
  refine ⟨rfl, rfl, by decide, by decide, ⟨record12 .queued, List.mem_singleton.2 rfl, rfl, rfl⟩, by decide,
    ?_, rfl, ?_, rfl⟩
  · intro r hr; exact absurd hr List.not_mem_nil
  · simp [Widening]

/-- A SWAP with no plan executing; pulses that find JOINING, the first of LISTEN, and a swap to resolve (R108,
R148). -/
theorem test_witness_PulsesAndSwaps :
    (swapping (active 0) .ready 40).store.standbyBank.state = .ready
    ∧ (swapping (active 0) .ready 40).seq.current = none
    ∧ ({ active 0 with station := .joining } : State).station = .joining
    ∧ ({ active 0 with station := .listen } : State).peers.listenPulses = 0
    ∧ exec .swapResolution (swapping (waiting 500 .granted) .swapPending 40)
      = .next (swapping (waiting 500 .granted) .swapPending 40).resolveDueSwap :=
  ⟨rfl, rfl, rfl, rfl, rfl⟩

/-- Reports that trim a head, mark it for LOSS, and mark it because a trim step would pass 31 (R95, R96). -/
theorem test_witness_Reports :
    let m : Report := ({ burst12 with q1 := 5, low := 5 } : Burst).report 4
    m.cls = .marginal ∧ ¬ Distrusts (playing 1900 .writing .write 0 0) goodHead m
    ∧ HeadAfter (playing 1900 .writing .write 0 0) goodHead m false = { goodHead with trim := -1 }
    ∧ Distrusts (playing 1900 .writing .write 0 0) { goodHead with trim := 31 } m
    ∧ Distrusts (playing 1900 .writing .write 0 0) goodHead (({ burst12 with q0 := 15 } : Burst).report 4)
    ∧ (playing 1900 .writing .write 0 0).heads[0]? = some goodHead
    ∧ QueueSound (playing 1900 .writing .write 0 0)
    ∧ (playing 1900 .writing .write 0 0).store.standbyBank.state ≠ .swapPending := by
  refine ⟨rfl, ?_, by decide, ?_, Or.inl rfl, rfl, oneRecord_queueSound 1900 .writing, by decide⟩
  · rintro (h | ⟨_, _, _, h⟩)
    · exact absurd h (by decide)
    · exact absurd h (by decide)
  · exact Or.inr ⟨rfl, rfl, by decide, by decide⟩

/-- Record tag 12 executing with a SEGMENT_END cancel pending, its profile with two preheat segments. -/
def cancelling (angle : Nat) (st : RecordState) (ph : Phase) (segment k : Nat) (p : Profile) : State :=
  { playing angle st ph segment k with
    plans := { records := [{ record12 st with cancel := some .segmentEnd }], finished := [], accepted := 1 },
    seq := { (playing angle st ph segment k).seq with profile := some p } }

theorem cancelling_executing (angle : Nat) (st : RecordState) (ph : Phase) (g k : Nat) (p : Profile) :
    Executing (cancelling angle st ph g k p) { record12 st with cancel := some .segmentEnd } := by
  refine ⟨rfl, by simp [cancelling, playing, waiting, active], rfl, ?_⟩
  simp [cancelling, playing, PlanQueue.find, record12]

/-- Profile 4 with two preheat segments and two tail segments. -/
def profile5 : Profile := { profile4 with preheat := [0, 2], tail := [2, 0] }

theorem test_witness_SegmentAndPassEnds :
    Executing (playing 805 .preheat .preheat 0 1) (record12 .preheat)
    ∧ profile5.preheat[0]? = some 0 ∧ profile5.preheat[0 + 1]? = some 2
    ∧ profile5.tail[0]? = some 2 ∧ profile5.tail[0 + 1]? = some 0 ∧ (bank4.descriptor 0).count ≤ 1 + 1
    ∧ Executing (gates (playing 805 .preheat .preheat 0 1) true true) (record12 .preheat)
    ∧ (gates (playing 805 .preheat .preheat 0 1) true true).burst = none
    ∧ Executing (cancelling 805 .preheat .preheat 0 1 profile5)
        { record12 .preheat with cancel := some .segmentEnd }
    ∧ NoCorrection (cancelling 805 .preheat .preheat 0 1 profile5) none
    ∧ Executing { cancelling 1200 .writing .write 0 2 profile4 with burst := some burst12 }
        { record12 .writing with cancel := some .segmentEnd }
    ∧ (bank4.descriptor profile4.write).count ≤ 2 + 1
    ∧ Executing (gates (cancelling 1200 (.paused .writing) .write 0 2 { profile4 with tail := [] }) true true)
        { record12 (.paused .writing) with cancel := some .segmentEnd } :=
  ⟨playing_executing _ _ _ _ _, rfl, rfl, rfl, rfl, by decide, playing_executing 805 .preheat .preheat 0 1, rfl,
    cancelling_executing _ _ _ _ _ _, ⟨rfl, fun _ h => by cases h⟩, cancelling_executing 1200 _ _ _ _ _, by decide,
    cancelling_executing 1200 _ _ _ _ _⟩

/-- A station whose CLAIM is on the line, its record given. -/
def claimOf (r : Record) (angle : Nat) : State :=
  { claimOnLine 50 with clock := clock10 angle, plans := { records := [r], finished := [], accepted := 1 } }

theorem claimOf_queueSound (r : Record) (angle : Nat) : QueueSound (claimOf r angle) :=
  ⟨by show 1 ≤ 8; decide, List.pairwise_singleton _ _⟩

/-- The rows of Table 3-7 and of R45, each with its condition alone. -/
theorem test_witness_ClaimRows :
    ({ record12 .claiming with cancel := some .immediate } : Record).cancel ≠ none
    ∧ Fenced ⟨.low, 5⟩ (record12 .claiming).zone ∧ (record12 .claiming).kind = .write
    ∧ ({ active 0 with heads := [{ goodHead with state := .suspect }] } : State).headRecord 0
        = { goodHead with state := .suspect }
    ∧ timeBefore (claimOf (record12 .claiming) 1600).now (record12 .claiming).windowStart = false
    ∧ timeBefore (claimOf (record12 .claiming) 799).now (record12 .claiming).windowStart = true
    ∧ QueueSound (claimOf (record12 .claiming) 799) ∧ (record12 .claiming).cancel = none
    ∧ ¬ Fenced (claimOf (record12 .claiming) 799).restrictions.fence (record12 .claiming).zone
    ∧ ((claimOf (record12 .claiming) 799).headRecord 0).state ≠ .suspect := by
  refine ⟨by decide, Or.inl ⟨rfl, by decide⟩, rfl, rfl, by decide, by decide, claimOf_queueSound _ _, rfl, ?_,
    by decide⟩
  simp [Fenced, claimOf, claimOnLine, sending, active, State.reset, Restrictions.powerOn]

/-- The first bit of the frame on the line is a start bit, and its last a stop bit (R128, R134). -/
theorem test_witness_ReadBack :
    (claimOnLine 50).driven = false ∧ (claimOnLine 50).frameBits.length = 180
    ∧ ({ claimOnLine 50 with link := { (claimOnLine 50).link with bit := 179 } } : State).driven = true := by
  decide

theorem test_witness_ByteTaken :
    let x : Byte := 0x95
    let s := receivingLast [0x6A, 0x03, 0x05, 0x00, 0xF8] x
    s.link.byteBits = some (0, [x.getLsbD 0, x.getLsbD 1, x.getLsbD 2, x.getLsbD 3, x.getLsbD 4, x.getLsbD 5,
      x.getLsbD 6, x.getLsbD 7])
    ∧ s.link.receiver = .receiving ∧ s.link.onLine = none ∧ s.station = .active
    ∧ lineCommand (s.link.assembly ++ [⟨x, false, 0⟩]) 0 false = some (.syncRequest 3)
    ∧ lineCommand (s.link.assembly ++ [⟨x, true, 0⟩]) 0 false = some (.linkFrameError true)
    ∧ lineCommand ((receivingLast [0x6A] 0x03).link.assembly ++ [⟨0x03, false, 0⟩]) 0 false = none := by decide

/-- Received bytes without a fault and without a gap. -/
def received (f : LinkFrame) (n : Station) : List RxByte := (f.bytes n).map (fun b => ⟨b, false, 0⟩)

theorem received_whole {bs : List RxByte} {n : Station} {kind : Byte} {p : List Byte} (h1 : p.length ≤ 32)
    (h2 : ∀ b ∈ bs, b.fault = false) (h3 : ∀ b ∈ bs.drop 1, b.gap ≤ 20) (check : Byte)
    (h4 : bs.map RxByte.value = [0x6A#8, BitVec.ofNat 8 n.toNat, kind, BitVec.ofNat 8 p.length]
      ++ p ++ [check, 0x95#8])
    (h5 : (n.toNat + kind.toNat + p.length + (p.map BitVec.toNat).sum + check.toNat) % 256 = 0) :
    FrameReceived bs n kind p := ⟨h1, h2, h3, check, h4, h5⟩

/-- One received frame of every kind (R136). -/
theorem test_witness_FrameReceived :
    FrameReceived (received (.join (at10 5) 7) 3) 3 0x01 (timeBytes (at10 5) ++ byte4 7 ++ [1#8])
    ∧ FrameReceived (received (.beacon (at10 5) 9 2 .inSync) 3) 3 0x02
        (timeBytes (at10 5) ++ byte2 9 ++ [2#8, 1#8])
    ∧ FrameReceived (received (.claim (at10 5) 1 .write (at10 600) (at10 900) 50) 3) 3 0x03
        (timeBytes (at10 5) ++ [1#8, 0#8] ++ timeBytes (at10 600) ++ timeBytes (at10 900) ++ [50#8])
    ∧ FrameReceived (received (.release (at10 5) 1 (at10 600)) 3) 3 0x04
        (timeBytes (at10 5) ++ [1#8] ++ timeBytes (at10 600))
    ∧ FrameReceived (received .syncRequest 3) 3 0x05 []
    ∧ FrameReceived (received (.announce true []) 3) 3 0x06 ([1#8] ++ [])
    ∧ FrameReceived (received (.syncDone (at10 5) 9) 3) 3 0x07 (timeBytes (at10 5) ++ byte2 9) := by
  exact ⟨received_whole (by decide) (by decide) (by decide) 71 (by decide) (by decide),
    received_whole (by decide) (by decide) (by decide) 67 (by decide) (by decide),
    received_whole (by decide) (by decide) (by decide) 245 (by decide) (by decide),
    received_whole (by decide) (by decide) (by decide) 82 (by decide) (by decide),
    received_whole (by decide) (by decide) (by decide) 248 (by decide) (by decide),
    received_whole (by decide) (by decide) (by decide) 245 (by decide) (by decide),
    received_whole (by decide) (by decide) (by decide) 67 (by decide) (by decide)⟩

theorem test_witness_LinkLaws :
    LinkSound (active 0) ∧ SetupClean (active 0) ∧ LinkSound (receivingLast [0x6A] 3) := by
  refine ⟨⟨by decide, by decide, by decide, by decide, by decide, fun h => ?_, fun h => ?_, fun h => ?_⟩, fun h => ?_,
    ⟨by decide, by decide, by decide, by decide, by decide, fun h => ?_, fun h => ?_, fun _ => rfl⟩⟩
  all_goals first | cases h | exact absurd rfl h

/-- The laws hold together in a state with a plan executing, and a step leads on from it. -/
theorem test_witness_invariants :
    QueueSound (playing 805 .preheat .preheat 0 0) ∧ SequencerSound (playing 805 .preheat .preheat 0 0)
    ∧ TableSound (playing 805 .preheat .preheat 0 0) ∧ ClockSound (playing 805 .preheat .preheat 0 0)
    ∧ ∃ t, step (playing 805 .preheat .preheat 0 0) = .next t := by
  refine ⟨⟨by show 1 ≤ 8; decide, List.pairwise_singleton _ _⟩, ⟨?_, ?_, ?_, ?_⟩, emptyTable_sound rfl,
    ⟨?_, ?_, rfl, fun _ => rfl⟩, _, rfl⟩
  · intro r hr _
    rcases List.mem_singleton.1 hr with rfl
    rfl
  · intro t ht
    exact ⟨record12 .preheat, List.mem_singleton.2 rfl, Option.some.inj ht, rfl⟩
  · intro _
    exact ⟨rfl, by decide, rfl⟩
  · intro h
    cases h
  · intro h
    cases h
  · intro _ h
    cases h

end Sys2Proof.Tests
end

