-- ==== Sys2Proof/Proofs/RotationalTime.lean ====
section
/-! PROOFS. Rotational time and its comparisons (R5, R6): the clock's value as a number, sums and differences as
inverse operations, and the modular difference in its two halves. -/

namespace Sys2Proof.Machine

/-! ### The value of a time, sums and differences (R5) -/

/-- The bits of a clock's time are those of the revolution above those of the angle, so its value is a sum. -/
theorem Clock.now_toNat (c : Clock) : c.now.toNat = c.revolution.toNat * 4096 + c.angle.toNat := by
  rw [Clock.now, BitVec.toNat_append, ← Nat.shiftLeft_add_eq_or_of_lt c.angle.isLt, Nat.shiftLeft_eq]

/-- The time is that of the revolution modulo 256: it repeats every 256 revolutions. -/
theorem Clock.now_eq_of_revolution_mod {c d : Clock} (hangle : d.angle = c.angle)
    (hrev : d.revolution.toNat = (c.revolution.toNat + 256) % 256) : d.now = c.now := by
  have hc : c.revolution.toNat < 256 := c.revolution.isLt
  have hsame : d.revolution.toNat = c.revolution.toNat := by omega
  apply BitVec.eq_of_toNat_eq
  rw [Clock.now_toNat, Clock.now_toNat, hangle, hsame]

/-- Taking a duration off and adding it again gives the time back. -/
theorem timeMinus_toNat_add_mod (t : Time) (d : Nat) : ((timeMinus t d).toNat + d) % 1048576 = t.toNat := by
  have ht : t.toNat < 1048576 := t.isLt
  rw [timeMinus_toNat]
  omega

/-- From a time `d` earlier, the way of `d + e` leads as far as the way of `e` from the time itself. -/
theorem timePlus_timeMinus_add (t : Time) (d e : Nat) : timePlus (timeMinus t d) (d + e) = timePlus t e := by
  have hback := timeMinus_toNat_add_mod t d
  apply BitVec.eq_of_toNat_eq
  rw [timePlus_toNat, timePlus_toNat]
  omega

/-- The window of a new record ends its whole span after its start, though the model counts the end from the
plan start. -/
theorem newRecord_windowEnd (q : PlanQueue) (k : PlanKind) (x : PostRequest) (lead tail level : Nat) :
    (newRecord q k x lead tail level).windowEnd
      = timePlus (newRecord q k x lead tail level).windowStart (lead + x.length + tail) := by
  rw [Nat.add_assoc]
  exact (timePlus_timeMinus_add (BitVec.ofNat 20 x.planStart) lead (x.length + tail)).symm

/-- Settles O4: the clauses are the laws of times as numbers; the manual's worked value is computed. -/
theorem rotationalTimeArithmetic : Obligations.RotationalTimeArithmetic := by
  refine ⟨fun s => ⟨s.clock.now_toNat, ?_⟩, fun c d => Clock.now_eq_of_revolution_mod, timePlus_toNat,
    timeMinus_toNat_add_mod, fun q k x lead tail level => ⟨rfl, newRecord_windowEnd q k x lead tail level⟩,
    by decide⟩
  have hnow : s.now.toNat < 1048576 := s.now.isLt
  omega

/-! ### Comparison through the modular difference (R6) -/

/-- A modular difference in the lower half of the range is taken as it is. -/
theorem timeDiff_lower_half (a b : Time) (h : (a.toNat + 1048576 - b.toNat) % 1048576 < 524288) :
    timeDiff a b = (((a.toNat + 1048576 - b.toNat) % 1048576 : Nat) : Int) := by
  obtain ⟨_, hdiff⟩ | ⟨hupper, _⟩ := timeDiff_cases a b
  · exact hdiff
  · exact absurd h (Nat.not_lt.2 hupper)

/-- A modular difference in the upper half, its boundary included, is taken less the whole range. -/
theorem timeDiff_upper_half (a b : Time) (h : 524288 ≤ (a.toNat + 1048576 - b.toNat) % 1048576) :
    timeDiff a b = (((a.toNat + 1048576 - b.toNat) % 1048576 : Nat) : Int) - 1048576 := by
  obtain ⟨hlower, _⟩ | ⟨_, hdiff⟩ := timeDiff_cases a b
  · exact absurd hlower (Nat.not_lt.2 h)
  · exact hdiff

/-- Half the range apart, the first time counts as the earlier one. -/
theorem timeDiff_half_range (a b : Time) (h : (a.toNat + 1048576 - b.toNat) % 1048576 = 524288) :
    timeDiff a b = -524288 := by
  rw [timeDiff_upper_half a b h.ge, h]
  rfl

/-- The earlier of two times, through their difference. -/
theorem timeEarlier_eq (a b : Time) : timeEarlier a b = if timeDiff a b < 0 then a else b := by
  simp only [timeEarlier, timeBefore_iff]

/-- Settles O5: the two halves of the range, the words of order, and the boundary, which is in the upper half. -/
theorem timesComparedModularly : Obligations.TimesComparedModularly := by
  refine fun a b => ⟨⟨timeDiff_lower_half a b, timeDiff_upper_half a b⟩, timeAfter_iff a b,
    (timeDiff_eq_zero a b).symm, timeBefore_iff a b, timeAtOrBefore_iff a b, timeEarlier_eq a b, fun hhalf => ?_⟩
  have hdiff : timeDiff a b = -524288 := timeDiff_half_range a b hhalf
  exact ⟨hdiff, (timeBefore_iff a b).2 (by omega)⟩

end Sys2Proof.Machine
end

section
/-! PROOFS. The digest of a Share Table (R30): a sum of the entries' terms modulo 65536, so additive over the
table, and a function of the terms alone. -/

namespace Sys2Proof.Machine

/-! ### The digest as a sum modulo 65536 (R30) -/

/-- As a number the digest is the total of the entries' terms modulo 65536. -/
theorem digest_toNat (table : List Entry) :
    (digest table).toNat = (table.map Entry.digestTerm).sum % 65536 :=
  BitVec.toNat_ofNat _ 16

@[simp] theorem digest_nil : digest [] = 0 := rfl

/-- An entry adds its term to the digest of the rest. -/
@[simp] theorem digest_cons (e : Entry) (table : List Entry) :
    digest (e :: table) = BitVec.ofNat 16 e.digestTerm + digest table := by
  rw [digest, List.map_cons, List.sum_cons, BitVec.ofNat_add, digest]

/-- The digest of two parts of a table is the sum of their digests. -/
@[simp] theorem digest_append (t u : List Entry) : digest (t ++ u) = digest t + digest u := by
  rw [digest, List.map_append, List.sum_append, BitVec.ofNat_add, digest, digest]

/-! ### What the digest does not depend on, and what it tells apart -/

/-- A sum does not depend on the order of its terms. -/
theorem digest_perm {t u : List Entry} (h : t.Perm u) : digest t = digest u := by
  rw [digest, digest, (h.map Entry.digestTerm).sum_eq]

/-- A change of the entries that keeps each one's term keeps the digest. -/
theorem digest_map_of_digestTerm_eq {f : Entry → Entry} (hf : ∀ e, (f e).digestTerm = e.digestTerm)
    (table : List Entry) : digest (table.map f) = digest table := by
  have hterm : Entry.digestTerm ∘ f = Entry.digestTerm := funext hf
  rw [digest, digest, List.map_map, hterm]

/-- No term reads the kind or the origin of its entry. -/
theorem Entry.digestTerm_with_kind_origin (e : Entry) (k : PlanKind) (o : Origin) :
    ({ e with kind := k, origin := o } : Entry).digestTerm = e.digestTerm := rfl

/-- Two tables that differ in one entry have the same digest exactly if the terms of the two entries agree
modulo 65536. -/
theorem digest_replace_eq_iff (t u : List Entry) (e f : Entry) :
    digest (t ++ e :: u) = digest (t ++ f :: u) ↔ e.digestTerm % 65536 = f.digestTerm % 65536 := by
  rw [digest_append, digest_append, BitVec.add_right_inj, digest_cons, digest_cons, BitVec.add_left_inj,
    ← BitVec.toNat_inj, BitVec.toNat_ofNat, BitVec.toNat_ofNat]

/-- Settles O7: the digest is the sum modulo 65536, which has no order and reads no kind or origin, and
in which the terms around a replaced entry cancel. -/
theorem digestIsSumOfEntryTerms : Obligations.DigestIsSumOfEntryTerms := by
  refine ⟨digest_toNat, digest_nil, fun _ _ => digest_perm, fun t k o => ?_, fun t u e f hterm => ?_⟩
  · exact digest_map_of_digestTerm_eq (fun e => e.digestTerm_with_kind_origin (k e) (o e)) t
  · exact mt (digest_replace_eq_iff t u e f).1 hterm

end Sys2Proof.Machine
end

section
/-! PROOFS. The Power Monitor's readings (R90 to R92): what one reading does to every item of an open burst, and
why a burst that has reached 15 in a quarter is classed LOSS after it. -/

namespace Sys2Proof.Machine

/-! ### One reading, item by item (R91, Table 5-3) -/

/-- The quarter of a burst that a time lies in (R91). -/
def Burst.quarter (b : Burst) (t : Time) : Nat :=
  if timeBefore t b.boundary1 then 0 else if timeBefore t b.boundary2 then 1
  else if timeBefore t b.boundary3 then 2 else 3

/-- A deviation step raises the count of its time's quarter, and nothing else. -/
theorem Burst.deviation_eq (b : Burst) (t : Time) :
    b.deviation t = { b with
      q0 := if b.quarter t = 0 then min (b.q0 + 1) 15 else b.q0
      q1 := if b.quarter t = 1 then min (b.q1 + 1) 15 else b.q1
      q2 := if b.quarter t = 2 then min (b.q2 + 1) 15 else b.q2
      q3 := if b.quarter t = 3 then min (b.q3 + 1) 15 else b.q3 } := by
  unfold Burst.deviation Burst.quarter
  by_cases h1 : timeBefore t b.boundary1
  · simp [h1]
  by_cases h2 : timeBefore t b.boundary2
  · simp [h1, h2]
  by_cases h3 : timeBefore t b.boundary3 <;> simp [h1, h2, h3]

/-- A reading raises the count of its time's quarter where either line is high, and each tally by its own
line; the rest of the burst stays. -/
theorem Burst.reading_eq (b : Burst) (t : Time) (lo hi : Bool) :
    b.reading t lo hi = { b with
      q0 := if (lo || hi) && decide (b.quarter t = 0) then min (b.q0 + 1) 15 else b.q0
      q1 := if (lo || hi) && decide (b.quarter t = 1) then min (b.q1 + 1) 15 else b.q1
      q2 := if (lo || hi) && decide (b.quarter t = 2) then min (b.q2 + 1) 15 else b.q2
      q3 := if (lo || hi) && decide (b.quarter t = 3) then min (b.q3 + 1) 15 else b.q3
      low := if lo then min (b.low + 1) 255 else b.low
      high := if hi then min (b.high + 1) 255 else b.high } := by
  cases lo <;> cases hi <;> simp [Burst.reading, Burst.deviation_eq]

/-! ### LOSS is kept (R92, Table 5-4) -/

/-- Some quarter count of the burst has reached 15 (the LOSS row of Table 5-4). -/
def Burst.LossReached (b : Burst) : Prop := b.q0 = 15 ∨ b.q1 = 15 ∨ b.q2 = 15 ∨ b.q3 = 15

/-- The LOSS row of Table 5-4 comes first, so the threshold has no say in it. -/
theorem Burst.report_cls_eq_loss_iff (b : Burst) (threshold : Nat) :
    (b.report threshold).cls = .loss ↔ b.LossReached := by
  unfold Burst.report burstClass Burst.LossReached
  split_ifs with hloss <;> simp [hloss]

/-- A count at its ceiling stays there, whether or not a step raises it. -/
theorem saturated_count_stays {n top : Nat} (c : Prop) [Decidable c] (h : n = top) :
    (if c then min (n + 1) top else n) = top := by
  split_ifs <;> omega

/-- No reading takes a burst out of LOSS: each quarter's count, once 15, stays 15. -/
theorem Burst.lossReached_reading {b : Burst} (h : b.LossReached) (t : Time) (lo hi : Bool) :
    (b.reading t lo hi).LossReached := by
  rw [Burst.reading_eq]
  exact h.imp (saturated_count_stays _)
    (.imp (saturated_count_stays _) (.imp (saturated_count_stays _) (saturated_count_stays _)))

/-- Settles O10: the counts and tallies are read off the reading item by item, and the class of a burst that
has reached 15 from the LOSS row of Table 5-4, which no reading undoes. -/
theorem monitorCountsSaturate : Obligations.MonitorCountsSaturate := by
  intro b t lo hi threshold
  refine ⟨fun q hq => ?_, ?_, ?_, fun hloss => ?_⟩
  · have hquarter : q = b.quarter t := hq
    rw [hquarter, Burst.reading_eq]
    exact ⟨rfl, rfl, rfl, rfl⟩
  · rw [Burst.reading_eq]
  · rw [Burst.reading_eq]
  · exact (Burst.report_cls_eq_loss_iff _ threshold).2 (Burst.lossReached_reading hloss t lo hi)

end Sys2Proof.Machine
end

section
/-! PROOFS. The frames a station puts on the Share Link (R130, R131, R176, R177): what each field's bytes are, the
payload of each kind and its size, and the envelope whose CHECK completes the sum to 0 modulo 256. -/

namespace Sys2Proof.Machine

/-! ### The bytes of a field (R176, R177) -/

@[simp] theorem length_byte1 (n : Nat) : (byte1 n).length = 1 := rfl
@[simp] theorem length_byte2 (n : Nat) : (byte2 n).length = 2 := rfl
@[simp] theorem length_byte4 (n : Nat) : (byte4 n).length = 4 := rfl
@[simp] theorem length_flagByte (b : Bool) : (flagByte b).length = 1 := rfl
@[simp] theorem length_timeBytes (t : Time) : (timeBytes t).length = 3 := rfl

/-- A four-byte field is its lower and its upper half, each low byte first. -/
theorem byte4_eq_byte2_append_byte2 (n : Nat) : byte4 n = byte2 n ++ byte2 (n / 65536) := by
  have hhigh : n / 16777216 = n / 65536 / 256 := (Nat.div_div_eq_div_mul n 65536 256).symm
  rw [byte4, hhigh]
  rfl

/-- A flag byte is 0 for clear and 1 for set. -/
theorem flagByte_eq (b : Bool) : flagByte b = [if b then 1 else 0] := by cases b <;> rfl

/-- The two claim kind codes of Table 11-1 fix `kindByte`. -/
theorem kindByte_eq_of_codes {kind : PlanKind → Byte} (hwrite : kind .write = 0) (hcal : kind .cal = 1) :
    kindByte = kind := by
  funext k
  cases k with
  | write => exact hwrite.symm
  | cal => exact hcal.symm

/-! ### The payloads and their sizes (Tables 8-2 and 11-3) -/

/-- The payload size of a frame's kind (Table 8-2). -/
def LinkFrame.payloadSize : LinkFrame → Nat
  | .join _ _ => 8
  | .beacon _ _ _ _ => 7
  | .claim _ _ _ _ _ _ => 12
  | .release _ _ _ => 7
  | .syncRequest => 0
  | .announce _ es => 1 + 9 * es.length
  | .syncDone _ _ => 5

/-- A claim entry's fields stand in the order of Table 11-3. -/
theorem announceBytes_eq (e : Entry) :
    announceBytes e = [BitVec.ofNat 8 e.number, kindByte e.kind] ++ timeBytes e.windowStart
      ++ timeBytes e.windowEnd ++ [BitVec.ofNat 8 e.level] := rfl

/-- Every claim entry takes nine bytes, so the entries of an ANNOUNCE nine times their number. -/
theorem length_flatMap_announceBytes (es : List Entry) : (es.flatMap announceBytes).length = 9 * es.length := by
  induction es with
  | nil => rfl
  | cons e es ih =>
    have hentry : (announceBytes e).length = 9 := rfl
    rw [List.flatMap_cons, List.length_append, ih, hentry, List.length_cons]
    omega

/-- The payload of each kind has the size of its row of Table 8-2. -/
theorem LinkFrame.length_payload (f : LinkFrame) : f.payload.length = f.payloadSize := by
  cases f with
  | announce final es =>
    rw [LinkFrame.payload, List.length_append, length_flatMap_announceBytes, length_flagByte,
      LinkFrame.payloadSize]
  | _ => simp [LinkFrame.payload, LinkFrame.payloadSize]

/-- The payload of an ANNOUNCE: the final flag, and the fields of each claim entry (Table 11-3). -/
theorem LinkFrame.announce_payload (final : Bool) (es : List Entry) :
    (LinkFrame.announce final es).payload
      = [if final then 1 else 0] ++ es.flatMap (fun e => [BitVec.ofNat 8 e.number, kindByte e.kind]
        ++ timeBytes e.windowStart ++ timeBytes e.windowEnd ++ [BitVec.ofNat 8 e.level]) := by
  rw [LinkFrame.payload, flagByte_eq, funext announceBytes_eq]

/-! ### The envelope (R130) -/

/-- The check byte completes the sum of the bytes before it to 0 modulo 256. -/
theorem sum_add_checkByte_mod (bytes : List Byte) :
    ((bytes.map BitVec.toNat).sum + (checkByte bytes).toNat) % 256 = 0 := by
  rw [checkByte, BitVec.toNat_ofNat]
  omega

/-- The bytes that a link frame's CHECK is taken over: SENDER, KIND, LEN and the payload. -/
def LinkFrame.checkedBytes (f : LinkFrame) (sender : Station) : List Byte :=
  [BitVec.ofNat 8 sender.toNat, f.kindCode, BitVec.ofNat 8 f.payloadSize] ++ f.payload

/-- A frame's bytes are the checked ones between the lead byte and the CHECK with the trailer. -/
theorem LinkFrame.bytes_eq (f : LinkFrame) (sender : Station) :
    f.bytes sender = [0x6A#8] ++ f.checkedBytes sender ++ [checkByte (f.checkedBytes sender), 0x95#8] := by
  rw [LinkFrame.bytes, f.length_payload, List.append_assoc _ [checkByte _]]
  rfl

/-- The checked bytes add up to what R130 names; the station number fits its byte, and LEN stands for the
payload size modulo 256. -/
theorem LinkFrame.sum_checkedBytes (f : LinkFrame) (sender : Station) :
    ((f.checkedBytes sender).map BitVec.toNat).sum
      = sender.toNat + f.kindCode.toNat + f.payloadSize % 256 + (f.payload.map BitVec.toNat).sum := by
  have hsender : sender.toNat < 8 := sender.isLt
  simp only [LinkFrame.checkedBytes, List.map_append, List.map_cons, List.map_nil, List.sum_append,
    List.sum_cons, List.sum_nil, BitVec.toNat_ofNat]
  omega

/-- The sum of R130 over SENDER, KIND, LEN, payload and CHECK is 0 modulo 256. -/
theorem LinkFrame.envelope_sum_mod (f : LinkFrame) (sender : Station) :
    (sender.toNat + f.kindCode.toNat + f.payloadSize + (f.payload.map BitVec.toNat).sum
      + (checkByte (f.checkedBytes sender)).toNat) % 256 = 0 := by
  have hcheck := sum_add_checkByte_mod (f.checkedBytes sender)
  rw [f.sum_checkedBytes sender] at hcheck
  omega

/-! ### The bits on the line (R128) -/

theorem State.frameBits_eq_nil {s : State} (h : s.link.onLine = none) : s.frameBits = [] := by
  rw [State.frameBits, h]

theorem State.frameBits_of_onLine {s : State} {o : OnLine} (h : s.link.onLine = some o) :
    s.frameBits = (o.frame.bytes s.number).flatMap lineBits := by
  rw [State.frameBits, h]

/-- The ten bit times of a byte, one by one. -/
theorem lineBits_eq (x : Byte) :
    lineBits x = [false, x.getLsbD 0, x.getLsbD 1, x.getLsbD 2, x.getLsbD 3, x.getLsbD 4, x.getLsbD 5,
      x.getLsbD 6, x.getLsbD 7, true] := rfl

/-- Settles O11: the witnesses of the envelope are the kind's size and code and the check byte over the checked
bytes; the payloads are those of Table 11-3 with the codes of `kindByte`. The bound on an ANNOUNCE's entries is not
needed, since LEN enters the sum modulo 256. -/
theorem linkFrameEnvelope : Obligations.LinkFrameEnvelope := by
  refine ⟨fun f sender _ => ⟨f.payloadSize, f.kindCode, checkByte (f.checkedBytes sender), ?_, f.length_payload,
      ?_, f.envelope_sum_mod sender⟩, fun s => ⟨State.frameBits_eq_nil, fun o ho => ?_⟩, fun _ => rfl,
    byte4_eq_byte2_append_byte2, fun _ => rfl, fun kind hwrite hcal => ?_⟩
  · cases f <;> exact ⟨rfl, rfl⟩
  · rw [f.bytes_eq sender]
    simp [LinkFrame.checkedBytes]
  · rw [State.frameBits_of_onLine ho, funext lineBits_eq]
  · obtain rfl := kindByte_eq_of_codes hwrite hcal
    exact ⟨fun _ _ => rfl, fun _ _ _ => ⟨rfl, rfl, rfl, rfl⟩, fun _ _ _ _ _ _ => rfl, fun _ _ _ => rfl, rfl,
      LinkFrame.announce_payload, fun _ _ => rfl⟩

end Sys2Proof.Machine
end

section
/-! PROOFS. Windows and the budget (R7, R18, R22, R28): a window in terms of the offset from its start, the overlap
of two windows, and why the load over a window is greatest at one of finitely many points. -/

namespace Sys2Proof.Machine

/-! ### Windows by the offset from their start (R7) -/

/-- In a window that does not end before its start, an instant lies where its offset from the start is below the
span. -/
theorem windowContains_iff_offset {ws we : Time} (t : Time) (hspan : 0 ≤ timeDiff we ws) :
    windowContains ws we t = true ↔ 0 ≤ timeDiff t ws ∧ timeDiff t ws < timeDiff we ws := by
  rw [windowContains_iff]
  have hws := ws.isLt
  have hwe := we.isLt
  have ht := t.isLt
  have h1 := timeDiff_cases t ws
  have h2 := timeDiff_cases t we
  have h3 := timeDiff_cases we ws
  omega

theorem windowContains_start {ws we : Time} (hspan : 1 ≤ timeDiff we ws) : windowContains ws we ws = true := by
  rw [windowContains_iff_offset ws (by omega)]
  simp
  omega

theorem windowContains_end (ws we : Time) : windowContains ws we we = false := by
  rw [Bool.eq_false_iff, ne_eq, windowContains_iff]
  simp

theorem windowContains_empty (ws t : Time) : windowContains ws ws t = false := by
  rw [Bool.eq_false_iff, ne_eq, windowContains_iff]
  omega

theorem windowsOverlap_iff (ws we vs ve : Time) : windowsOverlap ws we vs ve = true ↔
    timeDiff ws ve < 0 ∧ timeDiff vs we < 0 ∧ 0 < timeDiff we ws ∧ 0 < timeDiff ve vs := by
  simp [windowsOverlap, timeBefore_iff, timeAfter_iff, and_assoc]

/-- A window that ends where the other starts does not overlap it. -/
theorem windowsOverlap_adjacent (ws we ve : Time) : windowsOverlap ws we we ve = false := by
  rw [Bool.eq_false_iff, ne_eq, windowsOverlap_iff]
  simp

/-- Overlapping windows share the later of their starts. -/
theorem common_instant_of_overlap {ws we vs ve : Time} (hnear : -262144 ≤ timeDiff ws vs)
    (h : windowsOverlap ws we vs ve = true) :
    ∃ t, windowContains ws we t = true ∧ windowContains vs ve t = true := by
  obtain ⟨h1, h2, h3, h4⟩ := (windowsOverlap_iff ws we vs ve).1 h
  by_cases hlater : 0 ≤ timeDiff ws vs
  · exact ⟨ws, windowContains_start (by omega), (windowContains_iff vs ve ws).2 ⟨hlater, h1⟩⟩
  · have hswap := timeDiff_swap ws vs (by omega)
    exact ⟨vs, (windowContains_iff ws we vs).2 ⟨by omega, h2⟩, windowContains_start (by omega)⟩

/-- Windows of at most 3584 that share an instant overlap. -/
theorem overlap_of_common_instant {ws we vs ve t : Time} (hw : 0 ≤ timeDiff we ws) (hw' : timeDiff we ws ≤ 3584)
    (hv : 0 ≤ timeDiff ve vs) (hv' : timeDiff ve vs ≤ 3584) (h1 : windowContains ws we t = true)
    (h2 : windowContains vs ve t = true) : windowsOverlap ws we vs ve = true := by
  rw [windowContains_iff_offset t hw] at h1
  rw [windowContains_iff_offset t hv] at h2
  have before : ∀ {a b c : Time}, 0 ≤ timeDiff t a → timeDiff t a < 3584 → 0 ≤ timeDiff t b →
      timeDiff t b < timeDiff c b → timeDiff c b ≤ 3584 → timeDiff a c < 0 := by
    intro a b c ha ha' hb hb' hc
    have la := a.isLt
    have lb := b.isLt
    have lc := c.isLt
    have lt := t.isLt
    have c1 := timeDiff_cases t a
    have c2 := timeDiff_cases t b
    have c3 := timeDiff_cases c b
    have c4 := timeDiff_cases a c
    omega
  rw [windowsOverlap_iff]
  exact ⟨before h1.1 (by omega) h2.1 h2.2 hv', before h2.1 (by omega) h1.1 h1.2 hw', by omega, by omega⟩

/-- Settles O6: a window by the offset from its start, and for the overlap the later of the two starts. -/
theorem windowsOverlapExactlyWhereAnInstantLiesInBoth :
    Obligations.WindowsOverlapExactlyWhereAnInstantLiesInBoth :=
  ⟨windowContains_iff, windowContains_end, windowContains_empty, windowsOverlap_adjacent,
    fun _ _ _ _ hw hw' hv hv' hnear _ => ⟨common_instant_of_overlap hnear,
      fun ⟨_, h1, h2⟩ => overlap_of_common_instant hw hw' hv hv' h1 h2⟩⟩

/-! ### The load of a table (R18) -/

/-- Every span of the table lies in the part's limits (R14). -/
def SpansKept (table : List Entry) : Prop :=
  ∀ e ∈ table, 1 ≤ timeDiff e.windowEnd e.windowStart ∧ timeDiff e.windowEnd e.windowStart ≤ 3584

@[simp] theorem loadAt_nil (t : Time) : loadAt [] t = 0 := rfl

@[simp] theorem loadAt_cons (e : Entry) (table : List Entry) (t : Time) :
    loadAt (e :: table) t = (if e.contains t then e.level else 0) + loadAt table t := by
  by_cases h : e.contains t = true <;> simp [loadAt, h]

theorem loadAt_append (table rest : List Entry) (t : Time) :
    loadAt (table ++ rest) t = loadAt table t + loadAt rest t := by
  simp [loadAt]

/-- Where every window that contains one instant contains another, the load there is no less. -/
theorem loadAt_le_of_contains {table : List Entry} {t u : Time}
    (h : ∀ e ∈ table, e.contains t = true → e.contains u = true) : loadAt table t ≤ loadAt table u := by
  induction table with
  | nil => simp
  | cons e es ih =>
    have hes := ih (fun x hx => h x (List.mem_cons_of_mem _ hx))
    have he := h e List.mem_cons_self
    by_cases ht : e.contains t = true
    · simp [ht, he ht, hes]
    · simp [ht]
      omega

theorem loadAt_sublist {small table : List Entry} (h : small.Sublist table) (t : Time) :
    loadAt small t ≤ loadAt table t := by
  induction h with
  | slnil => simp
  | cons e _ ih => rw [loadAt_cons]; omega
  | cons_cons e _ ih => rw [loadAt_cons, loadAt_cons]; omega

/-! ### The points of section 2.3 -/

theorem mem_loadPoints {table : List Entry} {ws we p : Time} : p ∈ loadPoints table ws we ↔
    p = ws ∨ ((∃ e ∈ table, e.windowStart = p) ∧ windowContains ws we p = true) := by
  simp [loadPoints]

theorem loadPoints_in_window {table : List Entry} {ws we p : Time} (hspan : 1 ≤ timeDiff we ws)
    (hp : p ∈ loadPoints table ws we) : windowContains ws we p = true := by
  rcases mem_loadPoints.1 hp with rfl | ⟨_, h⟩
  · exact windowContains_start hspan
  · exact h

/-- Among the points at or before an instant of the window one is the nearest. -/
theorem exists_nearest_loadPoint (table : List Entry) {ws we t : Time} (ht : 0 ≤ timeDiff t ws) :
    ∃ p ∈ loadPoints table ws we, 0 ≤ timeDiff t p ∧
      ∀ q ∈ loadPoints table ws we, 0 ≤ timeDiff t q → timeDiff t p ≤ timeDiff t q := by
  obtain ⟨p, hp, hmin⟩ := ((loadPoints table ws we).filter
      (fun q => decide (0 ≤ timeDiff t q))).toFinset.exists_min_image (timeDiff t)
    ⟨ws, by simp [mem_loadPoints, ht]⟩
  simp only [List.mem_toFinset, List.mem_filter, decide_eq_true_eq] at hp hmin
  exact ⟨p, hp.1, hp.2, fun q hq hq0 => hmin q ⟨hq, hq0⟩⟩

/-- The load at an instant of the window is reached at a point of section 2.3: at the nearest one before the
instant every window that contains the instant has opened. -/
theorem exists_loadPoint_ge {table : List Entry} {ws we t : Time} (hspans : SpansKept table)
    (hspan : 1 ≤ timeDiff we ws) (hspan' : timeDiff we ws ≤ 3584) (ht : windowContains ws we t = true) :
    ∃ p ∈ loadPoints table ws we, loadAt table t ≤ loadAt table p := by
  obtain ⟨ht0, ht1⟩ := (windowContains_iff_offset t (by omega)).1 ht
  obtain ⟨p, hp, hp0, hmin⟩ := exists_nearest_loadPoint table (we := we) ht0
  refine ⟨p, hp, loadAt_le_of_contains fun e he hcontains => ?_⟩
  obtain ⟨hs, hs'⟩ := hspans e he
  have hpws := hmin ws (mem_loadPoints.2 (.inl rfl)) ht0
  rw [Entry.contains, windowContains_iff_offset _ (by omega)] at hcontains ⊢
  have hopened : timeDiff t p ≤ timeDiff t e.windowStart := by
    by_cases hin : windowContains ws we e.windowStart = true
    · exact hmin _ (mem_loadPoints.2 (.inr ⟨⟨e, he, rfl⟩, hin⟩)) hcontains.1
    · rw [windowContains_iff_offset _ (by omega)] at hin
      by_contra hlt
      have l1 := t.isLt
      have l2 := ws.isLt
      have l3 := e.windowStart.isLt
      have c1 := timeDiff_cases t ws
      have c2 := timeDiff_cases t e.windowStart
      have c3 := timeDiff_cases e.windowStart ws
      omega
  have l1 := t.isLt
  have l2 := p.isLt
  have l3 := e.windowStart.isLt
  have c1 := timeDiff_cases t p
  have c2 := timeDiff_cases t e.windowStart
  have c3 := timeDiff_cases p e.windowStart
  omega

theorem fitsBudget_iff {table : List Entry} {ws we : Time} (hspans : SpansKept table)
    (hspan : 1 ≤ timeDiff we ws) (hspan' : timeDiff we ws ≤ 3584) (bTotal level : Nat) :
    fitsBudget table bTotal ws we level = true
      ↔ ∀ t, windowContains ws we t = true → loadAt table t + level ≤ bTotal := by
  simp only [fitsBudget, List.all_eq_true, decide_eq_true_eq]
  constructor
  · intro h t ht
    obtain ⟨p, hp, hle⟩ := exists_loadPoint_ge hspans hspan hspan' ht
    have := h p hp
    omega
  · exact fun h p hp => h p (loadPoints_in_window hspan hp)

/-- Settles O8: the load at any instant of the window is reached at a point of section 2.3, and every such point
lies in the window. -/
theorem budgetTestIsInstantByInstant : Obligations.BudgetTestIsInstantByInstant :=
  fun _ bTotal _ _ level hspans hspan hspan' => fitsBudget_iff hspans hspan hspan' bTotal level

/-! ### The hint of a denied claim (R28) -/

/-- Insertion keeps a list in order. -/
theorem insertBy_pairwise {α : Type} {before : α → α → Bool} {R : α → α → Prop}
    (hbefore : ∀ a b, before a b = true → R a b) (hnot : ∀ a b, before a b = false → R b a)
    (htrans : ∀ a b c, R a b → R b c → R a c) (x : α) {l : List α} (hl : l.Pairwise R) :
    (insertBy before x l).Pairwise R := by
  induction l with
  | nil => simp [insertBy]
  | cons y ys ih =>
    obtain ⟨h1, h2⟩ := List.pairwise_cons.1 hl
    simp only [insertBy]
    split
    · rename_i hxy
      refine List.pairwise_cons.2 ⟨fun z hz => ?_, hl⟩
      rcases List.mem_cons.1 hz with rfl | hz
      · exact hbefore _ _ hxy
      · exact htrans _ _ _ (hbefore _ _ hxy) (h1 z hz)
    · rename_i hxy
      refine List.pairwise_cons.2 ⟨fun z hz => ?_, ih h2⟩
      rcases List.mem_cons.1 ((insertBy_perm before x ys).mem_iff.1 hz) with rfl | hz
      · exact hnot _ _ (by simpa using hxy)
      · exact h1 z hz

theorem hintCandidates_sorted (table : List Entry) (ws : Time) :
    (hintCandidates table ws).Pairwise (fun a b => timeDiff a ws ≤ timeDiff b ws) := by
  unfold hintCandidates
  generalize ws :: _ = candidates
  induction candidates with
  | nil => simp [sortBy]
  | cons x xs ih =>
    refine insertBy_pairwise (R := fun a b => timeDiff a ws ≤ timeDiff b ws) (fun a b h => ?_) (fun a b h => ?_)
      (fun _ _ _ => Int.le_trans) x ih
    · simpa using h
    · simp at h; omega

theorem mem_hintCandidates {table : List Entry} {ws c : Time} : c ∈ hintCandidates table ws ↔
    c = ws ∨ (0 < timeDiff c ws ∧ ∃ e ∈ table, e.windowEnd = c) := by
  rw [hintCandidates, (sortBy_perm _ _).mem_iff]
  simp [timeAfter_iff, listing, (sortBy_perm _ _).mem_iff, and_comm]

/-- A window moved to another start keeps its span. -/
theorem timeDiff_moved (c ws we : Time) : timeDiff (c + (we - ws)) c = timeDiff we ws := by
  simp [timeDiff]

/-- The tests of R28 for one candidate. -/
theorem hintFits_iff {table : List Entry} {bTotal level : Nat} {now ws we c : Time} (hspans : SpansKept table)
    (hspan : 1 ≤ timeDiff we ws) (hspan' : timeDiff we ws ≤ 3584) :
    (decide (table.length < Config.tableCapacity) && fitsBudget table bTotal c (c + (we - ws)) level
        && timeAtOrBefore c (timePlus now Config.horizon)) = true ↔
      table.length < 32 ∧ (∀ t, windowContains c (c + (we - ws)) t = true → loadAt table t + level ≤ bTotal)
      ∧ timeDiff c (timePlus now 8192) ≤ 0 := by
  have hmoved := timeDiff_moved c ws we
  rw [Bool.and_eq_true, Bool.and_eq_true, decide_eq_true_eq, timeAtOrBefore_iff,
    fitsBudget_iff hspans (by omega) (by omega), and_assoc]
  rfl

/-- Settles O9: the candidates stand nearest first, so the first that passes the tests is the nearest, and where
none is found none passes. -/
theorem hintIsNearestFittingCandidate : Obligations.HintIsNearestFittingCandidate := by
  intro table bTotal now ws we level allowed hspans hspan hspan' hallowed
  have hmem : ∀ c, allowed c ↔ c ∈ hintCandidates table ws ∧
      (decide (table.length < Config.tableCapacity) && fitsBudget table bTotal c (c + (we - ws)) level
        && timeAtOrBefore c (timePlus now Config.horizon)) = true := by
    intro c
    rw [hallowed, mem_hintCandidates, hintFits_iff hspans hspan hspan']
  refine ⟨fun h hhint => ?_, fun hnone c hc => ?_⟩
  · have hsorted := hintCandidates_sorted table ws
    obtain ⟨hfit, pre, post, hsplit, hpre⟩ := List.find?_eq_some_iff_append.1 hhint
    refine ⟨(hmem h).2 ⟨by simp [hsplit], hfit⟩, fun c hc => ?_⟩
    obtain ⟨hcin, hcfit⟩ := (hmem c).1 hc
    rw [hsplit] at hcin hsorted
    rcases List.mem_append.1 hcin with hcpre | hcpost
    · exact absurd hcfit (Bool.not_eq_true _ ▸ (Bool.not_eq_true' _ ▸ hpre c hcpre))
    · rcases List.mem_cons.1 hcpost with rfl | hcpost
      · exact le_refl _
      · exact (List.pairwise_cons.1 (List.pairwise_append.1 hsorted).2.1).1 c hcpost
  · obtain ⟨hcin, hcfit⟩ := (hmem c).1 hc
    exact List.find?_eq_none.1 hnone c hcin hcfit

end Sys2Proof.Machine
end

section
/-! PROOFS. The laws that every step keeps, as one relation between the state before and the state after: what it is
composed of, the parts of the state it depends on, and the transmit queue's part of it. -/

namespace Sys2Proof.Machine

/-! ### The relation -/

/-- Everything that the laws of the blocks ask of a step from s to t, but for those of the Plan Queue and the Burst
Sequencer: the waiting commands stay, and each law that holds in s holds in t. -/
structure Keeps (s t : State) : Prop where
  pending : t.pending = s.pending
  clock : ClockSound s → ClockSound t
  table : TableSound s → PeersSound s → TableSound t
  store : StoreSound s → StoreSound t
  heads : HeadsSound s → HeadsSound t
  peers : PeersSound s → PeersSound t
  link : LinkSound s → SetupClean s → LinkSound t ∧ SetupClean t

theorem Keeps.refl (s : State) : Keeps s s :=
  ⟨rfl, id, fun h _ => h, id, id, id, fun h h' => ⟨h, h'⟩⟩

theorem Keeps.trans {s t u : State} (h : Keeps s t) (h' : Keeps t u) : Keeps s u where
  pending := h'.pending.trans h.pending
  clock := h'.clock ∘ h.clock
  table ht hp := h'.table (h.table ht hp) (h.peers hp)
  store := h'.store ∘ h.store
  heads := h'.heads ∘ h.heads
  peers := h'.peers ∘ h.peers
  link hl hc := h'.link (h.link hl hc).1 (h.link hl hc).2

/-- The parts of the state that the laws read are the same in t as in s; a search may have ended, and a Plan Queue
without records and without a current plan stays so. -/
def SameParts (s t : State) : Prop :=
  t.pending = s.pending ∧ t.clock = s.clock ∧ t.table = s.table ∧ t.store = s.store ∧ t.heads = s.heads
  ∧ (t.search = s.search ∨ t.search = none) ∧ t.link = s.link ∧ t.peers = s.peers ∧ t.station = s.station
  ∧ t.number = s.number ∧ t.config = s.config
  ∧ (s.plans.records = [] → t.plans.records = [] ∧ (s.seq.current = none → t.seq.current = none))

theorem Keeps.of_sameParts {s t : State} (h : SameParts s t) : Keeps s t := by
  obtain ⟨h1, h2, h3, h4, h5, h6, h7, h8, h9, h10, h11, h12⟩ := h
  refine ⟨h1, fun h => ?_, fun h _ => ?_, fun h => ?_, fun h => ?_, fun h => ?_, fun hl hc => ⟨?_, ?_⟩⟩
  · simpa only [ClockSound, h2] using h
  · simpa only [TableSound, h3, h11, h9] using h
  · simpa only [StoreSound, h4] using h
  · obtain ⟨hlen, hheads, hsearch⟩ := h
    refine ⟨by rw [h5, hlen], by rwa [h5], fun x hx => ?_⟩
    rcases h6 with h6 | h6 <;> rw [h6] at hx
    · exact hsearch x hx
    · cases hx
  · simpa only [PeersSound, h8, h9, h10] using h
  · simpa only [LinkSound, h7, h9] using hl
  · intro hs
    obtain ⟨hr, ht, hcur, hrest⟩ := hc (h9 ▸ hs)
    rw [h3, h7]
    exact ⟨(h12 hr).1, ht, (h12 hr).2 hcur, hrest⟩

theorem Keeps.of_store {s : State} {p : ProfileStore}
    (h : StoreSound s → StoreSound { s with store := p }) : Keeps s { s with store := p } :=
  ⟨rfl, id, fun h _ => h, h, id, id, fun h h' => ⟨h, h'⟩⟩

theorem Keeps.of_heads {s : State} {hs : List HeadRecord}
    (h : HeadsSound s → HeadsSound { s with heads := hs }) : Keeps s { s with heads := hs } :=
  ⟨rfl, id, fun h _ => h, id, h, id, fun h h' => ⟨h, h'⟩⟩

theorem Keeps.of_search {s : State} {x : Option Search}
    (h : HeadsSound s → HeadsSound { s with search := x }) : Keeps s { s with search := x } :=
  ⟨rfl, id, fun h _ => h, id, h, id, fun h h' => ⟨h, h'⟩⟩

theorem Keeps.of_clock {s : State} {c : Clock}
    (h : ClockSound s → ClockSound { s with clock := c }) : Keeps s { s with clock := c } :=
  ⟨rfl, h, fun h _ => h, id, id, id, fun h h' => ⟨h, h'⟩⟩

theorem Keeps.of_peers {s : State} {p : PeerBlock}
    (h : PeersSound s → PeersSound { s with peers := p }) : Keeps s { s with peers := p } :=
  ⟨rfl, id, fun h _ => h, id, id, h, fun h h' => ⟨h, h'⟩⟩

theorem Keeps.of_link {s : State} {l : Link} (h : LinkSound s → SetupClean s →
      LinkSound { s with link := l } ∧ SetupClean { s with link := l }) : Keeps s { s with link := l } :=
  ⟨rfl, id, fun h _ => h, id, id, id, h⟩

/-- A change of the table outside SETUP asks nothing of the other blocks. -/
theorem Keeps.of_table {s : State} {table : List Entry} (hset : s.station ≠ .setup)
    (h : TableSound s → PeersSound s → TableSound { s with table := table }) :
    Keeps s { s with table := table } :=
  ⟨rfl, id, h, id, id, id, fun h _ => ⟨h, fun hs => absurd hs hset⟩⟩

/-! ### The transmit queue (R139) -/

/-- At most one BEACON, one SYNC-DONE, one ANNOUNCE batch and one request in a transmit queue. -/
def QueueBounds (q : List TxEntry) : Prop :=
  keyCount q (fun k => decide (k = .beacon)) ≤ 1
  ∧ keyCount q (fun k => decide (k = .syncDone)) ≤ 1
  ∧ keyCount q (fun k => decide (k = .announce)) ≤ 1
  ∧ keyCount q (fun k => decide (k = .join) || decide (k = .syncRequest)) ≤ 1

theorem linkSound_iff (s : State) : LinkSound s ↔ QueueBounds s.link.queue ∧ s.link.collisions ≤ 4
    ∧ (s.link.collisions = 4 → s.station = .halted) ∧ (s.station = .halted → s.link.onLine = none)
    ∧ (s.link.assembly ≠ [] → s.link.receiver = .receiving) := by
  simp only [LinkSound, QueueBounds, and_assoc]

/-- The number of entries with a key depends on the keys alone. -/
theorem keyCount_eq_countP (q : List TxEntry) (f : TxKey → Bool) :
    keyCount q f = (q.map TxEntry.key).countP f := by
  rw [keyCount, List.countP_map, List.countP_eq_length_filter]
  rfl

theorem QueueBounds.of_subperm {q q' : List TxEntry} (h : (q'.map TxEntry.key).Subperm (q.map TxEntry.key))
    (hq : QueueBounds q) : QueueBounds q' := by
  have hle : ∀ f, keyCount q' f ≤ keyCount q f := fun f => by
    rw [keyCount_eq_countP, keyCount_eq_countP]
    exact h.countP_le f
  obtain ⟨h1, h2, h3, h4⟩ := hq
  exact ⟨(hle _).trans h1, (hle _).trans h2, (hle _).trans h3, (hle _).trans h4⟩

theorem QueueBounds.sublist {q q' : List TxEntry} (h : q'.Sublist q) (hq : QueueBounds q) : QueueBounds q' :=
  hq.of_subperm (h.map _).subperm

theorem queueBounds_nil : QueueBounds [] := by
  simp [QueueBounds, keyCount]

theorem keyCount_append (q : List TxEntry) (e : TxEntry) (f : TxKey → Bool) :
    keyCount (q ++ [e]) f = keyCount q f + if f e.key then 1 else 0 := by
  rw [keyCount, keyCount, List.filter_append, List.length_append]
  by_cases h : f e.key = true <;> simp [h]

/-- A CLAIM or RELEASE at the tail leaves the bounded kinds as they are. -/
theorem QueueBounds.append_claim_or_release {q : List TxEntry} {e : TxEntry}
    (he : (∃ n, e.key = .claim n) ∨ ∃ n, e.key = .release n) (hq : QueueBounds q) :
    QueueBounds (q ++ [e]) := by
  have hsame : ∀ f : TxKey → Bool, f e.key = false → keyCount (q ++ [e]) f = keyCount q f := fun f hf => by
    simp [keyCount_append, hf]
  obtain ⟨h1, h2, h3, h4⟩ := hq
  rcases he with ⟨n, he⟩ | ⟨n, he⟩ <;>
    exact ⟨by rwa [hsame _ (by simp [he])], by rwa [hsame _ (by simp [he])], by rwa [hsame _ (by simp [he])],
      by rwa [hsame _ (by simp [he])]⟩

theorem holds_eq_false {l : Link} {k : TxKey} (h : l.holds k = false) :
    keyCount l.queue (fun x => decide (x = k)) = 0 := by
  simp only [Link.holds, List.any_eq_false, beq_iff_eq] at h
  simpa [keyCount] using h

/-- A change of the link that leaves the line and the receiver as they are: the transmit queue keeps its bounds, and
the collision count stays or clears. -/
def QueueMoved (l m : Link) : Prop :=
  m.onLine = l.onLine ∧ m.receiver = l.receiver ∧ m.assembly = l.assembly
  ∧ (m.collisions = l.collisions ∨ m.collisions = 0) ∧ (QueueBounds l.queue → QueueBounds m.queue)

theorem QueueMoved.refl (l : Link) : QueueMoved l l := ⟨rfl, rfl, rfl, .inl rfl, id⟩

theorem QueueMoved.trans {l m n : Link} (h : QueueMoved l m) (h' : QueueMoved m n) : QueueMoved l n := by
  obtain ⟨h1, h2, h3, h4, h5⟩ := h
  obtain ⟨g1, g2, g3, g4, g5⟩ := h'
  refine ⟨g1.trans h1, g2.trans h2, g3.trans h3, ?_, g5 ∘ h5⟩
  rcases g4 with g4 | g4
  · exact g4 ▸ h4
  · exact .inr g4

theorem withdraw_moved (l : Link) (k : TxKey) : QueueMoved l (l.withdraw k) := by
  rw [withdraw_eq]
  refine ⟨rfl, rfl, rfl, ?_, fun h => h.sublist List.filter_sublist⟩
  by_cases hk : l.collided = some k <;> simp [Unsent, hk]

theorem enqueue_moved (l : Link) {e : TxEntry} (he : (∃ n, e.key = .claim n) ∨ ∃ n, e.key = .release n) :
    QueueMoved l (l.enqueue e) :=
  ⟨rfl, rfl, rfl, .inl rfl, fun h => h.append_claim_or_release he⟩

/-- An entry whose kind is not yet in the queue joins it. -/
theorem enqueueOnce_moved (l : Link) {e : TxEntry} (he : e = .beacon ∨ e = .syncDone) :
    QueueMoved l (l.enqueueOnce e) := by
  unfold Link.enqueueOnce
  split
  · exact QueueMoved.refl l
  · rename_i hold
    have hnone := holds_eq_false (Bool.not_eq_true _ ▸ hold)
    refine ⟨rfl, rfl, rfl, .inl rfl, fun ⟨h1, h2, h3, h4⟩ => ?_⟩
    rcases he with rfl | rfl <;>
      simp [QueueBounds, Link.enqueue, keyCount_append, TxEntry.key, h1, h2, h3, h4] <;> exact hnone

theorem enqueueRequest_moved (l : Link) {e : TxEntry} (he : e = .join ∨ e = .syncRequest) :
    QueueMoved l (l.enqueueRequest e) := by
  unfold Link.enqueueRequest
  split
  · exact QueueMoved.refl l
  · rename_i hold
    have hnone : keyCount l.queue (fun k => decide (k = .join) || decide (k = .syncRequest)) = 0 := by
      simpa [keyCount, Link.holds, not_or, forall_and] using hold
    refine ⟨rfl, rfl, rfl, .inl rfl, fun ⟨h1, h2, h3, h4⟩ => ?_⟩
    rcases he with rfl | rfl <;>
      simp [QueueBounds, Link.enqueue, keyCount_append, TxEntry.key, h1, h2, h3, hnone]

theorem requestBatch_moved (l : Link) : QueueMoved l l.requestBatch := by
  unfold Link.requestBatch
  split
  · refine ⟨rfl, rfl, rfl, .inl rfl, fun h => h.of_subperm (List.Perm.subperm (.of_eq ?_))⟩
    rw [List.map_map]
    refine List.map_congr_left fun e _ => ?_
    simp only [Function.comp_apply]
    split <;> rfl
  · rename_i hold
    have hnone := holds_eq_false (Bool.not_eq_true _ ▸ hold)
    refine ⟨rfl, rfl, rfl, .inl rfl, fun ⟨h1, h2, h3, h4⟩ => ?_⟩
    simp [QueueBounds, Link.enqueue, keyCount_append, TxEntry.key, h1, h2, h4, hnone]

theorem finishing_moved (l : Link) (r : Record) (x : Option Time) : QueueMoved l (l.finishing r x) := by
  have hw : QueueMoved l (if r.state = .queued then l.withdraw (.claim r.claim) else l) := by
    split
    · exact withdraw_moved l _
    · exact QueueMoved.refl l
  cases x with
  | none => exact hw
  | some t => exact hw.trans (enqueue_moved _ (.inr ⟨_, rfl⟩))

/-- A change of the transmit queue alone keeps the laws where SETUP's queue stays empty. -/
theorem Keeps.of_queueMoved {s : State} {l : Link} (h : QueueMoved s.link l)
    (hset : s.station = .setup → SetupClean s → l.queue = []) : Keeps s { s with link := l } := by
  obtain ⟨h1, h2, h3, h4, h5⟩ := h
  refine Keeps.of_link fun hl hc => ⟨?_, fun hs => ?_⟩
  · rw [linkSound_iff] at hl ⊢
    obtain ⟨hq, hcol, hfour, hline, hasm⟩ := hl
    refine ⟨h5 hq, ?_, ?_, fun hs => h1.trans (hline hs), ?_⟩
    · show l.collisions ≤ 4
      omega
    · intro (h : l.collisions = 4)
      exact hfour (by omega)
    · show l.assembly ≠ [] → l.receiver = .receiving
      rwa [h2, h3]
  · obtain ⟨hr, ht, hcur, hq, hline, hasm⟩ := hc hs
    exact ⟨hr, ht, hcur, hset hs hc, h1.trans hline, h3.trans hasm⟩

/-- Outside SETUP a change of the transmit queue alone keeps the laws. -/
theorem Keeps.of_queueMoved' {s : State} {l : Link} (h : QueueMoved s.link l) (hset : s.station ≠ .setup) :
    Keeps s { s with link := l } :=
  Keeps.of_queueMoved h fun hs => absurd hs hset

/-! ### The shapes that commands share -/

/-- A request of the plan port: refused with a reply, or handled while RSTn is high (R164, R174). -/
theorem request_cases (s : State) (kind : Byte) (p : List Byte) (n : Nat) (handle : State → State) :
    s.request kind p n handle = s ∨ s.request kind p n handle = s.answer kind .badLength
    ∨ (s.pins.rstn = true ∧ s.request kind p n handle = handle s) := by
  unfold State.request
  split
  · exact .inl rfl
  · rename_i h
    split
    · exact .inr (.inl rfl)
    · exact .inr (.inr ⟨by simpa using h, rfl⟩)

/-- The clock at an event's time: where it stands, or advanced within its revolution (R3, R4). -/
theorem atTime_cases (s : State) (t : Time) (act : State → State) :
    s.atTime t act = s ∨ s.atTime t act = act s
    ∨ ∃ a, s.atTime t act = act { s with clock := s.clock.advanceTo a } := by
  unfold State.atTime State.clockTo
  split
  · rename_i u h
    split at h
    · cases h; exact .inr (.inl rfl)
    · split at h <;> cases h
      exact .inr (.inr ⟨_, rfl⟩)
  · exact .inl rfl

/-- A clock that advances keeps its law (R3). -/
theorem advanceTo_sound {s : State} (a : BitVec 12) (h : ClockSound s) :
    ClockSound { s with clock := s.clock.advanceTo a } := by
  obtain ⟨_, _, h3, h4⟩ := h
  exact ⟨fun ha => by simpa [Clock.advanceTo] using ha, fun _ ha => by simpa [Clock.advanceTo] using ha, h3, h4⟩

theorem Keeps.of_advance (s : State) (a : BitVec 12) : Keeps s { s with clock := s.clock.advanceTo a } :=
  Keeps.of_clock (advanceTo_sound a)

/-- An event taken at its time keeps the laws where its action does, wherever the clock stands. -/
theorem Keeps.atTime {s : State} {act : State → State} (t : Time)
    (h : ∀ c : Clock, Keeps { s with clock := c } (act { s with clock := c })) : Keeps s (s.atTime t act) := by
  rcases atTime_cases s t act with h' | h' | ⟨a, h'⟩ <;> rw [h']
  · exact Keeps.refl s
  · exact h s.clock
  · exact (Keeps.of_advance s a).trans (h _)

theorem Keeps.answer (s : State) (k : Byte) (r : Result) (p : List Byte) : Keeps s (s.answer k r p) :=
  Keeps.of_sameParts (by simp [SameParts])

/-- A request keeps the laws where its own rule does. -/
theorem Keeps.request {s : State} {handle : State → State} (kind : Byte) (p : List Byte) (n : Nat)
    (h : s.pins.rstn = true → Keeps s (handle s)) : Keeps s (s.request kind p n handle) := by
  rcases request_cases s kind p n handle with h' | h' | ⟨hr, h'⟩ <;> rw [h']
  · exact Keeps.refl s
  · exact Keeps.answer s _ _ _
  · exact h hr

end Sys2Proof.Machine
end

section
/-! PROOFS. What the operations of the Profile Store, the Head Table, the Power Monitor and the Burst Sequencer keep:
each operation once, those of the current plan composed of them. -/

namespace Sys2Proof.Machine

/-! ### The Profile Store (R97, R98, R100) -/

/-- The law of the Profile Store, by the roles of its banks. -/
def StoreLaw (p : ProfileStore) : Prop :=
  BankSound p.activeBank ∧ BankSound p.standbyBank
  ∧ (p.activeBank.state = .empty ∨ p.activeBank.state = .ready)
  ∧ (p.standbyBank.state = .loading ↔ p.load.isSome = true)
  ∧ (∀ l, p.load = some l → LoadSound l)

theorem storeSound_iff (s : State) : StoreSound s ↔ StoreLaw s.store := by
  unfold StoreSound StoreLaw ProfileStore.activeBank ProfileStore.standbyBank
  cases s.store.active
  · rfl
  · exact and_left_comm

theorem Keeps.of_storeLaw {s : State} {p : ProfileStore} (h : StoreLaw s.store → StoreLaw p) :
    Keeps s { s with store := p } :=
  Keeps.of_store fun hs => (storeSound_iff _).2 (h ((storeSound_iff s).1 hs))

/-- The state of a bank is no part of its law. -/
theorem BankSound.withState {b : Bank} (h : BankSound b) (st : BankState) : BankSound { b with state := st } := h

theorem bankSound_erased : BankSound Bank.erased := by
  simp [BankSound, Bank.erased, Memory.wf]

/-- A store whose standby bank is not LOADING holds no load record. -/
theorem StoreLaw.load_none {p : ProfileStore} (h : StoreLaw p) (hs : p.standbyBank.state ≠ .loading) :
    p.load = none := by
  obtain ⟨_, _, _, hload, _⟩ := h
  simpa using mt hload.2 hs

theorem StoreLaw.beginLoad {p : ProfileStore} (h : StoreLaw p) {n d q : Nat}
    (hl : LoadSound (Load.begin n d q)) : StoreLaw (p.beginLoad n d q) := by
  obtain ⟨hactive, _, hstate, _, _⟩ := h
  obtain ⟨_, h2, _, h4, h5⟩ := p.beginLoad_frame n d q
  rw [StoreLaw, h2, h4, h5]
  refine ⟨hactive, bankSound_erased.withState _, hstate, by simp, fun l hl' => ?_⟩
  cases hl'
  exact hl

theorem StoreLaw.dropLoad {p : ProfileStore} (h : StoreLaw p) : StoreLaw p.dropLoad := by
  obtain ⟨hactive, _, hstate, _, _⟩ := h
  obtain ⟨_, h2, _, h4, h5⟩ := p.dropLoad_frame
  rw [StoreLaw, h2, h4, h5]
  exact ⟨hactive, bankSound_erased, hstate, by simp [Bank.erased], by simp⟩

/-- A standby bank that does not load takes another state that is not LOADING. -/
theorem StoreLaw.setState {p : ProfileStore} (h : StoreLaw p) (hs : p.standbyBank.state ≠ .loading)
    {st : BankState} (hst : st ≠ .loading) : StoreLaw (p.setStandby { p.standbyBank with state := st }) := by
  have hnone := h.load_none hs
  obtain ⟨hactive, hstandby, hstate, _, _⟩ := h
  simp only [StoreLaw, ProfileStore.setStandby_frame, hnone]
  exact ⟨hactive, hstandby.withState _, hstate, by simp [hst], by simp⟩

/-- The last swap outcome is no part of the law. -/
theorem StoreLaw.withLastSwap {p : ProfileStore} (h : StoreLaw p) (o : SwapOutcome) :
    StoreLaw { p with lastSwap := o } := h

theorem StoreLaw.completeSwap {p : ProfileStore} (h : StoreLaw p) (hs : p.standbyBank.state ≠ .loading) :
    StoreLaw p.completeSwap := by
  have hnone := h.load_none hs
  obtain ⟨hactive, hstandby, hstate, _, _⟩ := h
  obtain ⟨_, _, h3, h4, h5⟩ := p.completeSwap_frame
  rw [StoreLaw, h3, h4, h5, hnone]
  refine ⟨hstandby.withState _, hactive, .inr rfl, ?_, by simp⟩
  rcases hstate with hstate | hstate <;> simp [hstate]

theorem standby_of_swapPending {p : ProfileStore} (h : p.swapPending = true) :
    p.standbyBank.state = .swapPending := by
  simpa [ProfileStore.swapPending] using h

theorem StoreLaw.resolveSwap {p : ProfileStore} (h : StoreLaw p) (hs : p.swapPending = true)
    (records : List Record) : StoreLaw (p.resolveSwap records) := by
  have hstate := standby_of_swapPending hs
  unfold ProfileStore.resolveSwap
  split
  · exact h.completeSwap (by simp [hstate])
  · exact (h.setState (by simp [hstate]) (by simp)).withLastSwap _

theorem StoreLaw.interrupt {p : ProfileStore} (h : StoreLaw p) : StoreLaw p.interrupt := by
  unfold ProfileStore.interrupt
  split
  · exact h.dropLoad
  · rename_i hs
    exact (h.setState (by simp [hs]) (by simp)).withLastSwap _
  · exact h
  · exact h

/-- One byte of a load is stored within the bank's sizes and counted (R102). -/
theorem takeByte_sound {l : Load} {b : Bank} (x : Byte) (hl : LoadSound l) (hb : BankSound b) :
    LoadSound (takeByte (l, b) x).1 ∧ BankSound (takeByte (l, b) x).2 ∧ (takeByte (l, b) x).2.state = b.state := by
  obtain ⟨h1, h2, h3, h4, h5, h6⟩ := hl
  have hreceived : min (l.received + 1) 65535 ≤ 65535 := Nat.min_le_right _ _
  obtain ⟨hwf, hin, hdesc, hprof⟩ := hb
  have hexpected : l.expected = 4 * l.d + 14 * l.p + l.n := rfl
  simp only [takeByte]
  split
  · split
    · exact ⟨⟨h1, h2, h3, h4, h5, hreceived⟩, ⟨hwf, hin, by simpa [takeDescriptor] using hdesc, hprof⟩, rfl⟩
    · exact ⟨⟨h1, h2, h3, h4, h5, hreceived⟩, ⟨hwf, hin, hdesc, hprof⟩, rfl⟩
  · split
    · split <;> exact ⟨⟨h1, h2, h3, h4, h5, hreceived⟩, ⟨hwf, hin, hdesc, hprof⟩, rfl⟩
    · split
      · rename_i hpos
        refine ⟨⟨h1, h2, h3, h4, h5, hreceived⟩, ⟨Memory.wf_write _ _ _ hwf, fun c hc => ?_, hdesc, hprof⟩, rfl⟩
        rcases Memory.mem_write _ _ _ c hc with hc | hc
        · exact hin c hc
        · omega
      · exact ⟨⟨h1, h2, h3, h4, h5, hreceived⟩, ⟨hwf, hin, hdesc, hprof⟩, rfl⟩

theorem takeBytes_sound {l : Load} {b : Bank} (bytes : List Byte) (hl : LoadSound l) (hb : BankSound b) :
    LoadSound (bytes.foldl takeByte (l, b)).1 ∧ BankSound (bytes.foldl takeByte (l, b)).2
    ∧ (bytes.foldl takeByte (l, b)).2.state = b.state := by
  induction bytes generalizing l b with
  | nil => exact ⟨hl, hb, rfl⟩
  | cons x xs ih =>
    obtain ⟨h1, h2, h3⟩ := takeByte_sound x hl hb
    obtain ⟨g1, g2, g3⟩ := ih h1 h2
    exact ⟨g1, g2, g3.trans h3⟩

theorem StoreLaw.takeData {p : ProfileStore} (h : StoreLaw p) {l : Load} (hload : p.load = some l)
    (bytes : List Byte) : StoreLaw (p.takeData l bytes) := by
  obtain ⟨hactive, hstandby, hstate, hloading, hsound⟩ := h
  obtain ⟨h1, h2, h3⟩ := takeBytes_sound bytes (hsound l hload) hstandby
  obtain ⟨_, f2, _, f4, f5⟩ := p.takeData_frame l bytes
  rw [StoreLaw, f2, f4, f5, h3, hloading, hload]
  refine ⟨hactive, h2, hstate, by simp, fun l' hl' => ?_⟩
  cases hl'
  exact h1

theorem readyBank_sound {l : Load} {b : Bank} (h : BankSound b) : BankSound (readyBank l b) := by
  obtain ⟨hwf, hin, hdesc, hprof⟩ := h
  refine ⟨hwf, hin, hdesc, ?_⟩
  have hlen : ∀ (zs : List (Nat × Profile)) (ps : List (Option Profile)),
      (zs.foldl (fun ps zp => ps.set zp.1 (some zp.2)) ps).length = ps.length := by
    intro zs
    induction zs with
    | nil => exact fun _ => rfl
    | cons z zs ih => exact fun ps => (ih _).trans (by simp)
  exact (hlen _ _).trans hprof

theorem StoreLaw.endLoad {p : ProfileStore} (h : StoreLaw p) (l : Load) : StoreLaw (p.endLoad l) := by
  unfold ProfileStore.endLoad
  split
  · obtain ⟨hactive, hstandby, hstate, _, _⟩ := h
    have hbanks := (p.setStandby (readyBank l p.standbyBank)).banks_congr
      { p.setStandby (readyBank l p.standbyBank) with load := none } rfl rfl rfl
    rw [StoreLaw, hbanks.1, hbanks.2]
    simp only [ProfileStore.setStandby_frame]
    exact ⟨hactive, readyBank_sound hstandby, hstate, by simp [readyBank], by simp⟩
  · exact h.dropLoad

/-! ### The Head Table (R114) -/

theorem headSound_powerOn : HeadSound HeadRecord.powerOn := by
  simp [HeadSound, HeadRecord.powerOn]

theorem HeadsSound.headRecord {s : State} (h : HeadsSound s) (head : Nat) : HeadSound (s.headRecord head) := by
  obtain ⟨_, hall, _⟩ := h
  rw [State.headRecord, List.getD_eq_getElem?_getD]
  cases hg : s.heads[head]? with
  | none => exact headSound_powerOn
  | some r => exact hall r (List.mem_of_getElem? hg)

theorem Keeps.setHeadRecord {s : State} (head : Nat) {r : HeadRecord} (h : HeadsSound s → HeadSound r) :
    Keeps s (s.setHeadRecord head r) := by
  refine Keeps.of_heads fun hs => ?_
  have hr := h hs
  obtain ⟨hlen, hall, hsearch⟩ := hs
  refine ⟨by simpa using hlen, fun x hx => ?_, hsearch⟩
  rcases List.mem_or_eq_of_mem_set hx with hx | rfl
  · exact hall x hx
  · exact hr

/-! ### Records and their endings (R49) -/

theorem records_ne_nil_of_find {s : State} {t : Tag} {r : Record} (h : s.plans.find t = some r) :
    s.plans.records ≠ [] :=
  List.ne_nil_of_mem (find_mem h)

theorem find_of_currentRecord {s : State} {r : Record} (h : s.currentRecord = some r) :
    s.seq.current = some r.tag ∧ s.plans.find r.tag = some r := by
  obtain ⟨t, h1, h2⟩ := Option.bind_eq_some_iff.1 h
  obtain rfl := find_tag h2
  exact ⟨h1, h2⟩

theorem records_ne_nil_of_current {s : State} {r : Record} (h : s.currentRecord = some r) :
    s.plans.records ≠ [] :=
  records_ne_nil_of_find (find_of_currentRecord h).2

theorem records_ne_nil_of_claiming {s : State} {n : Nat} {r : Record} (h : s.plans.claiming n = some r) :
    s.plans.records ≠ [] :=
  List.ne_nil_of_mem (List.mem_of_find?_eq_some h)

@[simp] theorem updateRecord_records (s : State) (t : Tag) (f : Record → Record) :
    (s.updateRecord t f).plans.records = s.plans.records.map (fun r => if r.tag = t then f r else r) := rfl

@[simp] theorem finish_records (s : State) (r : Record) (e : Ending) :
    (s.finish r e).plans.records
      = s.plans.records.map (fun x => if x.tag = r.tag then x.finish e s.now else x) := rfl

theorem Keeps.updateRecord (s : State) (t : Tag) (f : Record → Record) : Keeps s (s.updateRecord t f) :=
  Keeps.of_sameParts (by simp [SameParts])

theorem Keeps.setLaser (s : State) (l : Laser) : Keeps s (s.setLaser l) := by
  refine Keeps.of_sameParts ?_
  simp only [SameParts, State.setLaser_frame, true_and, true_or]
  refine fun h => ⟨h, fun hc => ?_⟩
  unfold State.setLaser
  split
  · exact hc
  · split <;> exact hc

theorem Keeps.setReferences (s : State) (low high : Nat) : Keeps s (s.setReferences low high) :=
  Keeps.of_sameParts (by simp [SameParts])

theorem Keeps.assertWfault (s : State) : Keeps s s.assertWfault :=
  Keeps.of_sameParts (by simp [SameParts, State.assertWfault])

theorem Keeps.releaseWfault (s : State) : Keeps s s.releaseWfault :=
  Keeps.of_sameParts (by simp [SameParts, State.releaseWfault])

theorem Keeps.writeFault (s : State) (c : FaultCause) (t : Time) : Keeps s (s.writeFault c t) :=
  Keeps.of_sameParts (by simp [SameParts])

/-- A record of the queue finishes: SETUP, which holds none, is not left with a RELEASE (R49). -/
theorem Keeps.finish {s : State} (r : Record) (e : Ending) (h : s.plans.records ≠ []) : Keeps s (s.finish r e) := by
  have hplans : Keeps s { s with plans := s.plans.finish r.tag e s.now } :=
    Keeps.of_sameParts (by simp [SameParts, PlanQueue.finish, PlanQueue.update])
  refine hplans.trans (Keeps.of_queueMoved (finishing_moved s.link r e.release) fun hs hc => ?_)
  have hnil := (hc hs).1
  simp [PlanQueue.finish, PlanQueue.update] at hnil
  exact absurd hnil h

theorem Keeps.finishAll {s : State} (rs : List Record) (e : Record → Ending)
    (h : rs ≠ [] → s.plans.records ≠ []) : Keeps s (s.finishAll rs e) := by
  induction rs generalizing s with
  | nil => exact Keeps.refl s
  | cons r rs ih =>
    have hne := h (List.cons_ne_nil r rs)
    exact (Keeps.finish r (e r) hne).trans (ih fun _ => by simpa using hne)

/-- The records of the queue that pass a test finish. -/
theorem Keeps.finishFilter (s : State) (f : Record → Bool) (e : Record → Ending) :
    Keeps s (s.finishAll (s.plans.records.filter f) e) :=
  Keeps.finishAll _ _ fun h hnil => h (by rw [hnil]; rfl)

/-! ### SUSPECT heads, trim steps and what follows a burst (R86, R95, R96) -/

theorem Keeps.resolvePendingSwap (s : State) : Keeps s s.resolvePendingSwap := by
  unfold State.resolvePendingSwap
  split
  · rename_i h
    exact Keeps.of_storeLaw fun hs => hs.resolveSwap h _
  · exact Keeps.refl s

theorem Keeps.resolveDueSwap (s : State) : Keeps s s.resolveDueSwap := by
  unfold State.resolveDueSwap
  split
  · exact Keeps.resolvePendingSwap s
  · exact Keeps.refl s

theorem Keeps.swapBeforeEndings (s : State) : Keeps s s.swapBeforeEndings := by
  have hfree : ∀ u : State, ∀ n, Keeps u { u with free := n } := fun u n =>
    Keeps.of_sameParts (by simp [SameParts])
  unfold State.swapBeforeEndings
  split
  · rename_i h
    split
    · exact (Keeps.of_storeLaw fun hs => hs.resolveSwap h _).trans (hfree _ _)
    · exact hfree s _
  · exact Keeps.refl s

theorem HeadSound.suspect {h : HeadRecord} (hs : HeadSound h) : HeadSound { h with state := .suspect } := by
  obtain ⟨h1, h2, h3, h4, _⟩ := hs
  exact ⟨h1, h2, h3, h4, fun hv => by cases hv⟩

theorem Keeps.markSuspect (s : State) (head : Nat) : Keeps s (s.markSuspect head) :=
  ((Keeps.swapBeforeEndings s).trans (Keeps.setHeadRecord head fun h => (h.headRecord head).suspect)).trans
    (Keeps.finishFilter _ _ _)

theorem Keeps.trimStep (s : State) (head : Nat) (m : Report) : Keeps s (s.trimStep head m) := by
  unfold State.trimStep
  split
  · exact Keeps.refl s
  · dsimp only
    split
    · exact Keeps.markSuspect s head
    · rename_i hrange
      refine Keeps.setHeadRecord head fun h => ?_
      obtain ⟨h1, h2, _, _, h5⟩ := h.headRecord head
      exact ⟨h1, h2, by simp only; omega, by simp only; omega, h5⟩

theorem Keeps.afterBurst (s : State) (head : Nat) (m : Option Report) : Keeps s (s.afterBurst head m) := by
  cases m with
  | none => exact Keeps.refl s
  | some m =>
    simp only [State.afterBurst]
    cases m.cls with
    | loss => exact Keeps.markSuspect s head
    | marginal => exact Keeps.trimStep s head m
    | clean => exact Keeps.refl s
    | drift => exact Keeps.refl s

/-! ### Play (R67) -/

theorem Keeps.emit (s : State) (r : Record) (value : Nat) : Keeps s (s.emit r value) := by
  unfold State.emit
  split
  · exact Keeps.setLaser s _
  · exact Keeps.refl s

theorem Keeps.monitorSample (s : State) (sample : Nat) : Keeps s (s.monitorSample sample) :=
  Keeps.of_sameParts (by simp [SameParts])

theorem Keeps.monitorStops (s : State) : Keeps s s.monitorStops :=
  Keeps.of_sameParts (by simp [SameParts])

theorem Keeps.monitorReading (s : State) (lo hi : Bool) : Keeps s (s.monitorReading lo hi) :=
  Keeps.of_sameParts (by simp [SameParts])

/-- The sequencer's other items are no part of these laws; a current plan may end. -/
theorem Keeps.of_seq {s : State} {q : Sequencer} (h : q.current = s.seq.current ∨ q.current = none) :
    Keeps s { s with seq := q } :=
  Keeps.of_sameParts (by rcases h with h | h <;> simp [SameParts, h])

theorem Keeps.playSample (s : State) (r : Record) (p : Profile) (ph : Phase) (g k : Nat) :
    Keeps s (s.playSample r p ph g k) := by
  have hpos : Keeps s { s with seq := { s.seq with
      position := some { phase := ph, segment := g, sample := some k } } } := Keeps.of_seq (.inl rfl)
  have hemit := hpos.trans (Keeps.emit _ r (sampleValue s.store.activeBank p ph g k))
  unfold State.playSample
  cases ph with
  | write => exact hemit.trans (Keeps.monitorSample _ _)
  | preheat => exact hemit
  | tail => exact hemit

/-! ### The current plan: its ending and its entries (R55, R56, R69, R71, R75, R78) -/

theorem Keeps.endPlan {s : State} (r : Record) (o : PlanOutcome) (fault : Option Time) (cal : Option CalResult)
    (h : s.plans.records ≠ []) : Keeps s (s.endPlan r o fault cal) := by
  have hfinish := (Keeps.setLaser s .off).trans (Keeps.finish r
    { outcome := o, release := executedRelease s.now r,
      report := s.burst.map (fun b => b.report s.config.deviationThreshold), calResult := cal, faultStamp := fault }
    (by simpa using h))
  refine (hfinish.trans (Keeps.of_sameParts ?_)).trans (Keeps.afterBurst _ r.head _)
  simp [SameParts, Sequencer.idle]

theorem Keeps.clash {s : State} (r : Record) (h : s.plans.records ≠ []) : Keeps s (s.clash r) :=
  (Keeps.assertWfault s).trans (Keeps.endPlan _ _ _ _ (by simpa using h))

theorem Keeps.endTail {s : State} (r : Record) (h : s.plans.records ≠ []) : Keeps s (s.endTail r) := by
  unfold State.endTail
  split
  · exact Keeps.endPlan _ _ _ _ h
  · split <;> exact Keeps.endPlan _ _ _ _ h

theorem Keeps.enterTail {s : State} (r : Record) (p : Profile) (ovr : Option Time) (h : s.plans.records ≠ []) :
    Keeps s (s.enterTail r p ovr) := by
  have hentered := ((Keeps.updateRecord s r.tag (fun x => { x with
      state := .tail, cancel := if ovr.isSome then none else r.cancel })).trans (Keeps.monitorStops _)).trans
    (Keeps.of_seq (q := { s.seq with firstStep := false, overrun := ovr }) (.inl rfl))
  unfold State.enterTail
  dsimp only
  split
  · exact hentered.trans (Keeps.endTail _ (by simpa using h))
  · exact hentered.trans (Keeps.playSample _ _ _ _ _ _)

theorem Keeps.pause (s : State) (r : Record) (p : Profile) (m : PauseFrom) : Keeps s (s.pause r p m) :=
  ((Keeps.updateRecord s _ _).trans (Keeps.emit _ _ _)).trans (Keeps.monitorStops _)

theorem Keeps.enterReady {s : State} (r : Record) (p : Profile) (h : s.plans.records ≠ []) :
    Keeps s (s.enterReady r p) := by
  have hready := (Keeps.updateRecord s r.tag (fun x => { x with state := .ready })).trans (Keeps.emit _ r p.hold)
  unfold State.enterReady
  dsimp only
  split
  · split
    · exact hready.trans (Keeps.clash _ (by simpa using h))
    · exact hready.trans (Keeps.updateRecord _ _ _)
  · exact hready

theorem Keeps.advancePreheat {s : State} (r : Record) (p : Profile) (pos : Position) (h : s.plans.records ≠ []) :
    Keeps s (s.advancePreheat r p pos) := by
  unfold State.advancePreheat
  dsimp only
  split
  · exact Keeps.endPlan _ _ _ _ h
  · split
    · exact Keeps.playSample _ _ _ _ _ _
    · exact Keeps.enterReady _ _ h

theorem Keeps.advanceWrite {s : State} (r : Record) (p : Profile) (pos : Position) (h : s.plans.records ≠ []) :
    Keeps s (s.advanceWrite r p pos) := by
  unfold State.advanceWrite
  split
  · exact Keeps.playSample _ _ _ _ _ _
  · split
    · exact (Keeps.assertWfault s).trans (Keeps.enterTail _ _ _ (by simpa using h))
    · exact Keeps.playSample _ _ _ _ _ _

theorem Keeps.advanceTail {s : State} (r : Record) (p : Profile) (pos : Position) (h : s.plans.records ≠ []) :
    Keeps s (s.advanceTail r p pos) := by
  unfold State.advanceTail
  split
  · exact Keeps.playSample _ _ _ _ _ _
  · exact Keeps.endTail _ h

/-! ### The calibration search (R121 to R124) -/

/-- The first step of a search: threshold 0, ten bits to try. -/
theorem searchSound_first (tag : Tag) (head : Nat) :
    SearchSound { tag := tag, head := head, step := 1, threshold := 0, offset := 0, monlo := 0 } := by
  simp [SearchSound]

/-- The levels taken at the end of a step leave room for the bits still to be tried. -/
theorem SearchSound.next {x : Search} (h : SearchSound x) (lo hi : Bool) (hstep : x.step < 20) :
    SearchSound { x.reading lo hi with step := x.step + 1 } := by
  obtain ⟨h1, h2, h3, h4⟩ := h
  by_cases hten : x.step ≤ 10
  · obtain ⟨hthr, hoff⟩ := h3 hten
    obtain ⟨k, hk⟩ : ∃ k, x.step + k = 10 := ⟨10 - x.step, by omega⟩
    have hbit : calBit x.step = k := by simp [calBit, hten]; omega
    have hpow : (2 : Nat) ^ (11 - x.step) = 2 ^ k + 2 ^ k := by
      rw [show 11 - x.step = k + 1 by omega, Nat.pow_succ]; omega
    have hnext : 11 - (x.step + 1) = k := by omega
    have hpos : 1 ≤ (2 : Nat) ^ k := Nat.one_le_two_pow
    cases hi <;> simp [SearchSound, Search.reading, Search.candidate, hten, hbit, hnext, hoff] <;> omega
  · have hsum := h4 (by omega)
    cases hi <;> simp only [Search.reading, Search.candidate, hten, if_false, if_true, Bool.false_eq_true] <;>
      (try split) <;> refine ⟨by simp, by simp; omega, by simp; omega, fun _ => ?_⟩ <;> simp only <;> omega

/-- A search that ends without a failure cause gives codes in range, the write code above the threshold code
(R123). -/
theorem SearchSound.result {x : Search} (h : SearchSound x) (hstep : 20 ≤ x.step) (lo hi : Bool)
    (hc : (x.reading lo hi).result.cause = .none) :
    (x.reading lo hi).result.threshold < (x.reading lo hi).result.write
    ∧ (x.reading lo hi).result.write ≤ 1023 := by
  obtain ⟨_, _, _, h4⟩ := h
  have hsum := h4 (by omega)
  have hle : (x.reading lo hi).threshold + (x.reading lo hi).offset ≤ 1023 := by
    have hten : ¬ x.step ≤ 10 := by omega
    cases hi <;> simp only [Search.reading, Search.candidate, hten, if_false, if_true, Bool.false_eq_true]
    · split <;> simp only <;> omega
    · exact hsum
  simp only [Search.result] at hc ⊢
  split at hc
  · cases hc
  · split at hc
    · cases hc
    · rename_i hw
      simp only [hw, if_false]
      omega

theorem Keeps.endCalibration {s : State} (r : Record) (c : CalResult) (h : s.plans.records ≠ [])
    (hc : HeadsSound s → c.cause = .none → c.threshold < c.write ∧ c.write ≤ 1023) :
    Keeps s (s.endCalibration r c) := by
  unfold State.endCalibration
  split
  · rename_i hnone
    have hend := Keeps.endPlan r .done none (some c) h
    exact {
      hend.trans (Keeps.setHeadRecord r.head (r := HeadRecord.powerOn) fun _ => headSound_powerOn) with
      heads := fun hs => by
        obtain ⟨hlt, hle⟩ := hc hs hnone
        exact (Keeps.setHeadRecord r.head fun _ => ⟨by simp only; omega, hle, by simp, by simp, fun _ => hlt⟩).heads
          (hend.heads hs) }
  · exact (Keeps.endPlan _ _ _ _ h).trans (Keeps.markSuspect _ _)
  · exact (Keeps.endPlan _ _ _ _ h).trans (Keeps.markSuspect _ _)

theorem Keeps.calibrationStep {s : State} (r : Record) (x : Search) (lo hi : Bool) (h : s.plans.records ≠ [])
    (hx : s.search = some x) : Keeps s (s.calibrationStep r x lo hi) := by
  unfold State.calibrationStep
  dsimp only
  split
  · rename_i hstep
    exact Keeps.endCalibration _ _ h fun hs => (hs.2.2 x hx).result hstep lo hi
  · rename_i hstep
    have hsearch : Keeps s { s with search := some { x.reading lo hi with step := x.step + 1 } } :=
      Keeps.of_search fun ⟨hlen, hall, hsound⟩ => ⟨hlen, hall, fun y hy => by
        cases hy
        exact (hsound x hx).next lo hi (by omega)⟩
    refine (hsearch.trans ?_).trans (Keeps.setLaser _ _)
    split
    · exact Keeps.setReferences _ _ _
    · exact Keeps.refl _

end Sys2Proof.Machine
end

section
/-! PROOFS. What the operations of the Share Table, the Link Controller and the Peer Block keep. -/

namespace Sys2Proof.Machine

/-! ### The Share Table (R15, R17, R18) -/

theorem TableSound.spansKept {s : State} (h : TableSound s) : SpansKept s.table := by
  obtain ⟨_, _, hsound, _, _⟩ := h
  exact fun e he => ⟨(hsound e he).2.2.2.1, (hsound e he).2.2.2.2⟩

theorem TableSound.sublist {s : State} (h : TableSound s) {small : List Entry} (hs : small.Sublist s.table) :
    TableSound { s with table := small } := by
  obtain ⟨hlen, hnames, hsound, hload, hempty⟩ := h
  exact ⟨hs.length_le.trans hlen, hnames.sublist hs, fun e he => hsound e (hs.subset he),
    fun t => (loadAt_sublist hs t).trans (hload t), fun hst => List.sublist_nil.1 (hempty hst ▸ hs)⟩

/-- A table that loses entries asks nothing of the other blocks. -/
theorem Keeps.of_subtable {s : State} {small : List Entry} (hs : small.Sublist s.table) :
    Keeps s { s with table := small } :=
  ⟨rfl, id, fun h _ => h.sublist hs, id, id, id, fun h hc => ⟨h, fun hst => by
    obtain ⟨hr, ht, hrest⟩ := hc hst
    exact ⟨hr, List.sublist_nil.1 (ht ▸ hs), hrest⟩⟩⟩

theorem purge_sublist (table : List Entry) (stamp : Time) : (purge table stamp).Sublist table :=
  List.filter_sublist

/-- A new entry joins a table that has room for it (R22, R34). -/
theorem TableSound.append {s : State} (h : TableSound s) {e : Entry} (he : EntrySound e)
    (hst : ¬(s.station = .setup ∨ s.station = .listen))
    (hname : ∀ x ∈ s.table, ¬(x.station = e.station ∧ x.number = e.number)) (hlen : s.table.length < 32)
    (hfits : fitsBudget s.table s.config.bTotal e.windowStart e.windowEnd e.level = true) :
    TableSound { s with table := s.table ++ [e] } := by
  have hspans := h.spansKept
  obtain ⟨_, hnames, hsound, hload, _⟩ := h
  have hentry := he
  obtain ⟨_, _, _, hspan, hspan'⟩ := he
  rw [fitsBudget_iff hspans hspan hspan'] at hfits
  refine ⟨by simp; omega, List.pairwise_append.2 ⟨hnames, List.pairwise_singleton _ _, fun x hx y hy => ?_⟩,
    fun x hx => ?_, fun t => ?_, fun hst' => absurd hst' hst⟩
  · rw [List.mem_singleton.1 hy]
    exact hname x hx
  · rcases List.mem_append.1 hx with hx | hx
    · exact hsound x hx
    · rwa [List.mem_singleton.1 hx]
  · have ht := hload t
    have hin := hfits t
    rw [loadAt_append, loadAt_cons, loadAt_nil, Entry.contains]
    split <;> simp_all

theorem level_pos {level : Byte} (h : level ≠ 0) : 1 ≤ level.toNat ∧ level.toNat ≤ 255 := by
  have hlt := level.isLt
  have hne : level.toNat ≠ 0 := fun h0 => h (BitVec.eq_of_toNat_eq (by simpa using h0))
  omega

/-- Admission keeps the law of the table, whatever its verdict (R21, R22). -/
theorem TableSound.admission {s : State} (h : TableSound s) (hst : ¬(s.station = .setup ∨ s.station = .listen))
    (n : Station) (stamp : Time) (number kind : Byte) (ws we : Time) (level : Byte) :
    TableSound { s with
      table := (admission (purge s.table stamp) s.config.bTotal n stamp number kind ws we level).2 } := by
  have hpurged := h.sublist (purge_sublist s.table stamp)
  rw [purge_eq] at hpurged ⊢
  by_cases hin : ClaimInLimits s.table n stamp number.toNat ws we level.toNat ∧ (kind = 0 ∨ kind = 1)
  · rw [admission_within _ _ _ _ _ _ _ _ _ hin]
    split
    · rename_i hroom
      obtain ⟨⟨hnumber, hlevel, _, _, hspan, hspan', hname⟩, _⟩ := hin
      have hlt := level.isLt
      exact hpurged.append ⟨hnumber, hlevel, by simp only; omega, hspan, hspan'⟩ hst hname hroom.1 hroom.2
    · exact hpurged
  · rw [admission_outside _ _ _ _ _ _ _ _ _ hin]
    exact hpurged

/-- A released window is part of the window that was held (Table 2-4). -/
theorem release_shortens {ws we x : Time} (hspan : 1 ≤ timeDiff we ws) (hspan' : timeDiff we ws ≤ 3584)
    (hx : timeAtOrBefore x ws = false) :
    1 ≤ timeDiff (timeEarlier we x) ws ∧ timeDiff (timeEarlier we x) ws ≤ timeDiff we ws := by
  rw [Bool.eq_false_iff, ne_eq, timeAtOrBefore_iff] at hx
  unfold timeEarlier
  split
  · omega
  · rename_i hb
    rw [timeBefore_iff] at hb
    have l1 := ws.isLt
    have l2 := we.isLt
    have l3 := x.isLt
    have c1 := timeDiff_cases we ws
    have c2 := timeDiff_cases x ws
    have c3 := timeDiff_cases we x
    omega

/-- What the application of a RELEASE makes of one entry. -/
def releasedEntry (n : Station) (number : Nat) (x : Time) (e : Entry) : Option Entry :=
  if e.station = n ∧ e.number = number then
    if timeAtOrBefore x e.windowStart then none
    else some { e with windowEnd := timeEarlier e.windowEnd x }
  else some e

theorem applyRelease_eq_filterMap (table : List Entry) (n : Station) (number : Nat) (x : Time) :
    applyRelease table n number x = table.filterMap (releasedEntry n number x) := rfl

/-- An entry that a RELEASE leaves has the name it had and a window within the one it had. -/
theorem releasedEntry_kept {n : Station} {number : Nat} {x : Time} {e e' : Entry} (he : EntrySound e)
    (h : releasedEntry n number x e = some e') :
    EntrySound e' ∧ e'.station = e.station ∧ e'.number = e.number ∧ e'.level = e.level
    ∧ ∀ t, e'.contains t = true → e.contains t = true := by
  unfold releasedEntry at h
  split at h
  · split at h
    · cases h
    · rename_i hx
      cases h
      obtain ⟨h1, h2, h3, hspan, hspan'⟩ := he
      obtain ⟨hs, hs'⟩ := release_shortens hspan hspan' (Bool.not_eq_true _ ▸ hx)
      refine ⟨⟨h1, h2, h3, hs, hs'.trans hspan'⟩, rfl, rfl, rfl, fun t ht => ?_⟩
      simp only [Entry.contains] at ht ⊢
      rw [windowContains_iff_offset t (by omega)] at ht ⊢
      omega
  · cases h
    exact ⟨he, rfl, rfl, rfl, fun _ => id⟩

theorem loadAt_applyRelease_le {table : List Entry} (h : ∀ e ∈ table, EntrySound e) (n : Station) (number : Nat)
    (x t : Time) : loadAt (applyRelease table n number x) t ≤ loadAt table t := by
  rw [applyRelease_eq_filterMap]
  induction table with
  | nil => simp
  | cons e es ih =>
    have hrest := ih fun y hy => h y (List.mem_cons_of_mem _ hy)
    rw [List.filterMap_cons]
    cases hr : releasedEntry n number x e with
    | none => rw [loadAt_cons]; exact hrest.trans (Nat.le_add_left _ _)
    | some e' =>
      obtain ⟨_, _, _, hlevel, hcontains⟩ := releasedEntry_kept (h e List.mem_cons_self) hr
      have hle := hcontains t
      simp only [loadAt_cons]
      by_cases h' : e'.contains t = true
      · simp [h', hle h', hlevel, hrest]
      · simp only [h', Bool.false_eq_true, if_false, Nat.zero_add]
        exact hrest.trans (Nat.le_add_left _ _)

theorem TableSound.applyRelease {s : State} (h : TableSound s) (n : Station) (number : Nat) (x : Time) :
    TableSound { s with table := applyRelease s.table n number x } := by
  obtain ⟨hlen, hnames, hsound, hload, hempty⟩ := h
  have hkept : ∀ e ∈ Machine.applyRelease s.table n number x, ∃ e₀ ∈ s.table,
      releasedEntry n number x e₀ = some e := fun e he => List.mem_filterMap.1 he
  refine ⟨(List.length_filterMap_le _ _).trans hlen, ?_, fun e he => ?_,
    fun t => (loadAt_applyRelease_le hsound n number x t).trans (hload t), fun hst => ?_⟩
  · show (s.table.filterMap (releasedEntry n number x)).Pairwise _
    rw [List.pairwise_filterMap]
    refine hnames.imp_of_mem fun {a b} ha hb hab a' ha' b' hb' => ?_
    obtain ⟨_, hs, hn, _⟩ := releasedEntry_kept (hsound a ha) ha'
    obtain ⟨_, hs', hn', _⟩ := releasedEntry_kept (hsound b hb) hb'
    rwa [hs, hn, hs', hn']
  · obtain ⟨e₀, he₀, hr⟩ := hkept e he
    exact (releasedEntry_kept (hsound e₀ he₀) hr).1
  · simp only [hempty hst]
    rfl

/-- The entries of an ANNOUNCE that a requester inserts (R34). -/
theorem TableSound.insertAnnounced {s : State} (h : TableSound s)
    (hst : ¬(s.station = .setup ∨ s.station = .listen)) (n : Station) (entries : List AnnounceEntry) :
    TableSound { s with table := (insertAnnounced s.config.bTotal n s.table entries).1 } := by
  induction entries generalizing s with
  | nil => exact h
  | cons a rest ih =>
    unfold Machine.insertAnnounced
    split
    · rename_i hallowed
      simp only [announceAllowed, Bool.and_eq_true, decide_eq_true_eq, spanAllowed,
        Option.isNone_iff_eq_none, findEntry_none] at hallowed
      obtain ⟨⟨⟨⟨⟨⟨hname, hnumber⟩, _⟩, hlevel⟩, hspan, hspan'⟩, hlen⟩, hfits⟩ := hallowed
      obtain ⟨hpos, hle⟩ := level_pos hlevel
      exact ih (s := { s with table := s.table ++ [announcedEntry n a] })
        (h.append (e := announcedEntry n a) ⟨hnumber, hpos, hle, hspan, hspan'⟩ hst hname hlen hfits) hst
    · exact h

/-! ### The Peer Table (R143 to R146) -/

/-- The law of a Peer Table at the station with the number given. -/
def PeerTableSound (table : List PeerEntry) (own : Station) : Prop :=
  table.length = 8 ∧ (∀ e ∈ table, PeerSound e)
  ∧ ∀ n : Station, (table.getD n.toNat PeerEntry.absentEntry).state = .self ↔ n = own

/-- The law of the sync state and the requester in a station state. -/
def SyncSound (sync : SyncState) (requester : Bool) (st : StationState) : Prop :=
  (requester = true ↔ sync = .resyncing) ∧ (st = .setup ∨ st = .listen → sync = .none)
  ∧ (st = .joining → sync = .desync ∨ sync = .resyncing) ∧ (st = .active → sync ≠ .none)

theorem peersSound_iff (s : State) : PeersSound s ↔
    PeerTableSound s.peers.table s.number ∧ SyncSound s.peers.sync s.peers.requester s.station := by
  simp only [PeersSound, PeerTableSound, SyncSound, PeerBlock.entry, and_assoc]

/-- A change of every entry that keeps each entry's law and leaves SELF where it is. -/
theorem PeerTableSound.map {table : List PeerEntry} {own : Station} (h : PeerTableSound table own)
    {f : PeerEntry → PeerEntry} (hf : ∀ e, PeerSound e → PeerSound (f e))
    (hself : ∀ e, (f e).state = .self ↔ e.state = .self) : PeerTableSound (table.map f) own := by
  obtain ⟨hlen, hsound, hown⟩ := h
  refine ⟨by simpa using hlen, fun e he => ?_, fun n => ?_⟩
  · obtain ⟨e₀, he₀, rfl⟩ := List.mem_map.1 he
    exact hf e₀ (hsound e₀ he₀)
  · have hn : n.toNat < table.length := by have := n.isLt; omega
    have hown' := hown n
    simp only [List.getD_eq_getElem?_getD, List.getElem?_map, List.getElem?_eq_getElem hn, Option.map_some,
      Option.getD_some] at hown' ⊢
    rw [hself, hown']

/-- Another station's entry replaced. -/
theorem PeerTableSound.set {table : List PeerEntry} {own n : Station} (h : PeerTableSound table own)
    (hn : n ≠ own) {e : PeerEntry} (he : PeerSound e) (hself : e.state ≠ .self) :
    PeerTableSound (table.set n.toNat e) own := by
  obtain ⟨hlen, hsound, hown⟩ := h
  refine ⟨by simpa using hlen, fun x hx => ?_, fun m => ?_⟩
  · rcases List.mem_or_eq_of_mem_set hx with hx | rfl
    · exact hsound x hx
    · exact he
  · have hm : m.toNat < table.length := by have := m.isLt; omega
    have hown' := hown m
    simp only [List.getD_eq_getElem?_getD] at hown' ⊢
    by_cases hmn : m = n
    · subst hmn
      rw [List.getElem?_set_self hm]
      simp [hself, hn]
    · have hne : n.toNat ≠ m.toNat := fun h => hmn (BitVec.eq_of_toNat_eq h).symm
      rw [List.getElem?_set_ne hne, hown']

theorem peerTableSound_cleared (own : Station) : PeerTableSound (PeerBlock.clearedTable own) own := by
  have hlt : own.toNat < 8 := own.isLt
  refine ⟨by simp [PeerBlock.clearedTable], fun e he => ?_, fun n => ?_⟩
  · rcases List.mem_or_eq_of_mem_set he with he | rfl
    · rw [(List.mem_replicate.1 he).2]
      simp [PeerSound, PeerEntry.absentEntry]
    · simp [PeerSound]
  · have hn : n.toNat < 8 := n.isLt
    rw [PeerBlock.clearedTable, List.getD_eq_getElem?_getD]
    by_cases h : n = own
    · subst h
      rw [List.getElem?_set_self (by simpa using hn)]
      simp
    · have hne : own.toNat ≠ n.toNat := fun h' => h (BitVec.eq_of_toNat_eq h').symm
      rw [List.getElem?_set_ne hne, List.getElem?_replicate]
      simp [hn, h, PeerEntry.absentEntry]

/-- The table keeps the own entries (R27). -/
theorem Keeps.keepOwn (s : State) : Keeps s { s with table := keepStation s.table s.number } :=
  Keeps.of_subtable List.filter_sublist

/-- Items of the Peer Block other than the Peer Table, the sync state and the requester are no part of its law. -/
theorem Keeps.of_peers_rest {s : State} {p : PeerBlock} (h1 : p.table = s.peers.table)
    (h2 : p.sync = s.peers.sync) (h3 : p.requester = s.peers.requester) : Keeps s { s with peers := p } :=
  Keeps.of_peers fun h => by
    rw [peersSound_iff] at h ⊢
    simpa only [h1, h2, h3] using h

theorem Keeps.updatePeer {s : State} {n : Station} (hn : n ≠ s.number) (f : PeerEntry → PeerEntry)
    (hf : PeersSound s → PeerSound (f (s.peers.entry n)) ∧ (f (s.peers.entry n)).state ≠ .self) :
    Keeps s (s.updatePeer n f) := by
  refine Keeps.of_peers fun h => ?_
  obtain ⟨he, hself⟩ := hf h
  rw [peersSound_iff] at h ⊢
  exact ⟨h.1.set hn he hself, h.2⟩

theorem peerSound_active (e : PeerEntry) : PeerSound { e with state := .active, lastHeard := 0 } := by
  simp [PeerSound]

theorem Keeps.heard {s : State} {n : Station} (hn : n ≠ s.number) : Keeps s (s.heard n) :=
  Keeps.updatePeer hn _ fun _ => ⟨peerSound_active _, by simp⟩

theorem Keeps.heardDigest {s : State} {n : Station} (hn : n ≠ s.number) (d : BitVec 16) :
    Keeps s (s.heardDigest n d) :=
  Keeps.updatePeer hn _ fun _ => ⟨by simp [PeerSound], by simp⟩

theorem Keeps.heardJoin {s : State} {n : Station} (hn : n ≠ s.number) (unit : BitVec 32) :
    Keeps s (s.heardJoin n unit) :=
  Keeps.updatePeer hn _ fun _ => ⟨by simp [PeerSound], by simp⟩

theorem heard_entry {s : State} (h : PeersSound s) (n : Station) :
    (s.heard n).peers.entry n = { s.peers.entry n with state := .active, lastHeard := 0 } := by
  have hn : n.toNat < s.peers.table.length := by have := n.isLt; rw [h.1]; omega
  simp [State.heard, State.updatePeer, PeerBlock.setEntry, PeerBlock.entry, hn]

/-- The announcements of a peer just heard are complete (R155). -/
theorem Keeps.heardFinal {s : State} {n : Station} (hn : n ≠ s.number) :
    Keeps s ((s.heard n).updatePeer n (fun e => { e with announced := true })) := by
  have hfinal : ∀ e : PeerEntry,
      PeerSound { e with state := .active, lastHeard := 0, announced := true } := fun e => by simp [PeerSound]
  have hheard := Keeps.heard hn
  have hrest : Keeps s (s.updatePeer n (fun e => { e with state := .active, lastHeard := 0, announced := true })) :=
    Keeps.updatePeer hn _ fun _ => ⟨hfinal _, by simp⟩
  refine { hrest with peers := fun h => ?_ }
  have hs := hheard.peers h
  rw [peersSound_iff] at hs ⊢
  refine ⟨hs.1.set (n := n) hn ?_ ?_, hs.2⟩
  · rw [heard_entry h]; exact hfinal _
  · rw [heard_entry h]; simp

theorem clearAnnounced_sound {table : List PeerEntry} {own : Station} (h : PeerTableSound table own) :
    PeerTableSound (clearAnnounced table) own := by
  refine h.map (fun e he => ?_) (fun e => Iff.rfl)
  obtain ⟨h1, h2, h3⟩ := he
  exact ⟨h1, h2, fun ha => by
    have := h3 ha
    rw [this]
    rfl⟩

theorem pulse_sound {table : List PeerEntry} {own : Station} (h : PeerTableSound table own) :
    PeerTableSound (table.map PeerEntry.pulse) own := by
  refine h.map (fun e he => ?_) (fun e => ?_)
  · obtain ⟨h1, h2, h3⟩ := he
    unfold PeerEntry.pulse
    split
    · rename_i hst
      split
      · exact ⟨fun _ => rfl, by simp, by simp⟩
      · exact ⟨fun hl => by rcases hst with hst | hst <;> simp [hst] at hl, fun _ => by simp only; omega,
          fun hl => by rcases hst with hst | hst <;> simp [hst] at hl⟩
    · exact ⟨h1, h2, h3⟩
  · unfold PeerEntry.pulse
    split
    · rename_i hst
      rcases hst with hst | hst <;> split <;> simp [hst]
    · rfl

/-! ### Agreement, requester and helper (R147, R150 to R158) -/

theorem Keeps.adopt (s : State) (stamp : Time) (pulse : Bool) : Keeps s (s.adopt stamp pulse) := by
  unfold State.adopt
  dsimp only
  split
  · exact (Keeps.of_clock (s := s) (c := { s.clock with
      revolution := stampRevolution stamp + (if pulse then 1 else 0) }) id).trans (Keeps.of_peers_rest rfl rfl rfl)
  · exact Keeps.refl s

theorem Keeps.desyncIf {s : State} (hset : s.station ≠ .setup) (trigger : Bool) : Keeps s (s.desyncIf trigger) := by
  unfold State.desyncIf
  split
  · rename_i h
    have hsync : s.peers.sync = .inSync := by simp only [Bool.and_eq_true, decide_eq_true_eq] at h; exact h.2
    refine Keeps.trans (t := { s with peers := { s.peers with sync := .desync } }) (Keeps.of_peers fun hp => ?_)
      (Keeps.of_queueMoved' (enqueueRequest_moved _ (.inr rfl)) hset)
    rw [peersSound_iff] at hp ⊢
    obtain ⟨ht, hreq, hnone, _, _⟩ := hp
    rw [hsync] at hreq hnone
    exact ⟨ht, by simpa using hreq, fun h => absurd (hnone h) (by simp), fun _ => .inl rfl, fun _ => by simp⟩
  · exact Keeps.refl s

theorem Keeps.abandon {s : State} (hset : s.station ≠ .setup) (hreq : s.peers.requester = true) :
    Keeps s s.abandon := by
  let owned : State := { s with table := keepStation s.table s.number }
  let alone : State := { owned with peers := { s.peers with
    sync := .desync, requester := false, awaited := [], table := clearAnnounced s.peers.table, reRequest := true } }
  have hpeers : Keeps owned alone := Keeps.of_peers fun hp => ?_
  · exact ((Keeps.keepOwn s).trans hpeers).trans
      (Keeps.of_queueMoved' (s := alone) (withdraw_moved s.link .syncDone) hset)
  rw [peersSound_iff] at hp ⊢
  obtain ⟨ht, hiff, hnone, _, _⟩ := hp
  have hsync := hiff.1 hreq
  exact ⟨clearAnnounced_sound ht, by simp, fun h => absurd (hnone h) (by simp [hsync]), fun _ => .inl rfl,
    fun _ => by simp⟩

theorem Keeps.errorTaken {s : State} (hset : s.station ≠ .setup) : Keeps s s.errorTaken := by
  unfold State.errorTaken
  split
  · rename_i h
    exact Keeps.abandon hset h
  · exact Keeps.desyncIf hset true

theorem Keeps.completeIfCollected {s : State} (hset : s.station ≠ .setup) : Keeps s s.completeIfCollected := by
  unfold State.completeIfCollected
  split
  · exact Keeps.of_queueMoved' (enqueueOnce_moved _ (.inr rfl)) hset
  · exact Keeps.refl s

theorem Keeps.dropAwaited {s : State} (hset : s.station ≠ .setup) (n : Station) : Keeps s (s.dropAwaited n) := by
  unfold State.dropAwaited
  split
  · exact Keeps.trans (t := { s with peers := { s.peers with
      awaited := s.peers.awaited.filter (fun m => m != n) } }) (Keeps.of_peers_rest rfl rfl rfl)
      (Keeps.completeIfCollected hset)
  · exact Keeps.refl s

theorem takesFrames_iff (s : State) : s.takesFrames = true ↔ s.station = .joining ∨ s.station = .active := by
  simp [State.takesFrames]

theorem station_of_takesFrames {s : State} (h : s.takesFrames = true) :
    s.station ≠ .setup ∧ s.station ≠ .listen ∧ s.station ≠ .halted := by
  rcases (takesFrames_iff s).1 h with h | h <;> simp [h]

theorem station_of_readsLine {s : State} (h : s.readsLine = true) : s.station ≠ .setup ∧ s.station ≠ .halted := by
  simp only [State.readsLine, Bool.or_eq_true, decide_eq_true_eq, takesFrames_iff] at h
  rcases h with h | h | h <;> simp [h]

theorem Keeps.becomeRequester {s : State} (h : s.takesFrames = true) : Keeps s s.becomeRequester := by
  obtain ⟨hset, hlisten, _⟩ := station_of_takesFrames h
  let owned : State := { s with table := keepStation s.table s.number }
  let asking : State := { owned with peers := { s.peers with
    sync := .resyncing, requester := true, table := clearAnnounced s.peers.table,
    awaited := s.peers.stations (fun e => decide (e.state = .active)), requesterPulses := 0, reRequest := false } }
  have hpeers : Keeps owned asking := Keeps.of_peers fun hp => ?_
  · exact ((Keeps.keepOwn s).trans hpeers).trans (Keeps.completeIfCollected (s := asking) hset)
  rw [peersSound_iff] at hp ⊢
  exact ⟨clearAnnounced_sound hp.1, by simp, fun h' => by rcases h' with h' | h' <;> contradiction,
    fun _ => .inr rfl, fun _ => by simp⟩

/-- A station in LISTEN, JOINING or ACTIVE goes on to JOINING or ACTIVE. -/
theorem Keeps.of_station {s : State} {st : StationState} {p : PeerBlock} (hs : s.station ≠ .halted)
    (hst : st = .joining ∨ st = .active) (hp : PeersSound s → PeersSound { s with station := st, peers := p }) :
    Keeps s { s with station := st, peers := p } := by
  have hnot : st ≠ .setup ∧ st ≠ .listen ∧ st ≠ .halted := by rcases hst with rfl | rfl <;> simp
  refine ⟨rfl, id, fun h _ => ?_, id, id, hp, fun hl _ => ⟨?_, fun h => absurd h hnot.1⟩⟩
  · obtain ⟨h1, h2, h3, h4, _⟩ := h
    exact ⟨h1, h2, h3, h4, fun h => by rcases h with h | h <;> simp_all⟩
  · rw [linkSound_iff] at hl ⊢
    obtain ⟨h1, h2, h3, _, h5⟩ := hl
    exact ⟨h1, h2, fun h => absurd (h3 h) hs, fun h => absurd h hnot.2.2, h5⟩

theorem Keeps.endResync {s : State} (h : s.takesFrames = true) : Keeps s s.endResync := by
  have hactive : (if s.station = .joining then .active else s.station) = StationState.active := by
    rcases (takesFrames_iff s).1 h with h | h <;> simp [h]
  refine Keeps.of_station (station_of_takesFrames h).2.2 (.inr hactive) fun hp => ?_
  rw [peersSound_iff] at hp ⊢
  refine ⟨hp.1, by simp, fun h' => ?_, fun h' => ?_, fun _ => by simp⟩ <;> simp [hactive] at h'

theorem Keeps.enterJoining {s : State} (h : s.station = .listen) : Keeps s s.enterJoining := by
  let timed : State := { s with clock := { s.clock with
    revolution := if s.peers.adopted then s.clock.revolution else 0 } }
  let joining : State := { timed with station := .joining, peers := { s.peers with sync := .desync } }
  have htimed : Keeps s timed := Keeps.of_clock id
  have hstation : Keeps timed joining := Keeps.of_station (by simp [timed, h]) (.inl rfl) fun hp => ?_
  · exact (htimed.trans hstation).trans
      (Keeps.of_queueMoved' (s := joining) (enqueueRequest_moved s.link (.inl rfl)) (by simp [joining]))
  rw [peersSound_iff] at hp ⊢
  obtain ⟨ht, hiff, hnone, _, _⟩ := hp
  have hsync := hnone (.inr h)
  rw [hsync] at hiff
  exact ⟨ht, by simpa using hiff, by simp, fun _ => .inl rfl, by simp⟩

theorem Keeps.help {s : State} (n : Station) : Keeps s (s.help n) := by
  unfold State.help
  split
  · rename_i h
    exact Keeps.trans (t := { s with link := s.link.requestBatch })
      (Keeps.of_queueMoved' (requestBatch_moved _) (by simp [h])) (Keeps.of_peers_rest rfl rfl rfl)
  · exact Keeps.refl s

/-! ### INDEX pulses (R2, R145, R148, R152, R157, R159) -/

theorem pulse_clockSound (s : State) (interval : Nat) :
    ClockSound { s with clock := s.clock.pulse interval } := by
  refine ⟨fun h => by simp [Clock.pulse] at h, fun _ h => by simp [Clock.pulse] at h, ?_, fun _ => rfl⟩
  simp only [Clock.pulse]
  cases s.clock.pulseSeen <;> rfl

theorem Keeps.pulseLost {s : State} (hset : s.station ≠ .setup) : Keeps s s.pulseLost := by
  have hpulsed : ∀ awaited, Keeps s { s with peers := { s.peers with
      table := s.peers.table.map PeerEntry.pulse, awaited := awaited } } := fun awaited =>
    Keeps.of_peers fun hp => by
      rw [peersSound_iff] at hp ⊢
      exact ⟨pulse_sound hp.1, hp.2⟩
  unfold State.pulseLost
  dsimp only
  split
  · exact hpulsed _
  · exact (hpulsed _).trans (Keeps.completeIfCollected hset)

theorem Keeps.pulseListen (s : State) : Keeps s s.pulseListen := by
  unfold State.pulseListen
  split
  · rename_i h
    have hcount := Keeps.of_peers_rest (s := s) (p := { s.peers with listenPulses := s.peers.listenPulses + 1 })
      rfl rfl rfl
    dsimp only
    split
    · exact hcount.trans (Keeps.enterJoining h)
    · exact hcount
  · exact Keeps.refl s

theorem Keeps.pulseQuiet (s : State) : Keeps s s.pulseQuiet := by
  unfold State.pulseQuiet
  split
  · split <;> exact Keeps.of_peers_rest rfl rfl rfl
  · exact Keeps.refl s

theorem Keeps.pulseReRequest {s : State} (hset : s.station ≠ .setup) : Keeps s s.pulseReRequest := by
  unfold State.pulseReRequest
  split
  · refine Keeps.trans (t := { s with peers := { s.peers with reRequest := false } })
      (Keeps.of_peers_rest rfl rfl rfl) (Keeps.of_queueMoved' (enqueueRequest_moved _ ?_) hset)
    split
    · exact .inl rfl
    · exact .inr rfl
  · exact Keeps.refl s

theorem Keeps.pulseRequester {s : State} (hset : s.station ≠ .setup) : Keeps s s.pulseRequester := by
  unfold State.pulseRequester
  split
  · rename_i h
    have hcount := Keeps.of_peers_rest (s := s) (p := { s.peers with
      requesterPulses := min (s.peers.requesterPulses + 1) 2 }) rfl rfl rfl
    dsimp only
    split
    · exact hcount.trans (Keeps.abandon hset h)
    · exact hcount
  · exact Keeps.refl s

/-- A pulse leads from LISTEN to JOINING at most. -/
theorem pulseListen_station {s : State} (hset : s.station ≠ .setup) : s.pulseListen.station ≠ .setup := by
  unfold State.pulseListen
  split
  · dsimp only
    split
    · simp [State.enterJoining]
    · exact hset
  · exact hset

theorem Keeps.peerPulse (s : State) : Keeps s s.peerPulse := by
  unfold State.peerPulse
  split
  · rename_i h
    obtain ⟨hset, _⟩ := station_of_readsLine h
    have h1 : s.pulseLost.pulseListen.station ≠ .setup := pulseListen_station (by simpa using hset)
    have h2 : s.pulseLost.pulseListen.pulseQuiet.pulseReRequest.station ≠ .setup := by simpa using h1
    have hchain := ((((Keeps.pulseLost hset).trans (Keeps.pulseListen _)).trans (Keeps.pulseQuiet _)).trans
      (Keeps.pulseReRequest (by simpa using h1))).trans (Keeps.pulseRequester h2)
    dsimp only
    split
    · exact hchain.trans (Keeps.of_queueMoved' (enqueueOnce_moved _ (.inl rfl)) (by simpa using h1))
    · exact hchain
  · exact Keeps.refl s

theorem Keeps.takePulse (s : State) (interval : Nat) : Keeps s (s.takePulse interval) := by
  unfold State.takePulse
  split
  · exact ((Keeps.resolveDueSwap s).trans (Keeps.of_clock fun _ => by
      have := pulse_clockSound s.resolveDueSwap interval
      simpa using this)).trans (Keeps.peerPulse _)
  · exact Keeps.refl s

end Sys2Proof.Machine
end

section
/-! PROOFS. What the frames of the Share Link, the halts and the resets of the station keep. -/

namespace Sys2Proof.Machine

/-! ### Halting (R85, R149, R175) -/

/-- HALTED frees the station from the laws of its other states; no frame of its own is on the line. -/
theorem Keeps.of_halted {s : State} (h : s.link.onLine = none) : Keeps s { s with station := .halted } := by
  refine ⟨rfl, id, fun hs _ => ?_, id, id, fun hs => ?_, fun hs _ => ⟨?_, fun h => by cases h⟩⟩
  · obtain ⟨h1, h2, h3, h4, _⟩ := hs
    exact ⟨h1, h2, h3, h4, by simp⟩
  · rw [peersSound_iff] at hs ⊢
    exact ⟨hs.1, hs.2.1, by simp, by simp, by simp⟩
  · rw [linkSound_iff] at hs ⊢
    obtain ⟨h1, h2, _, _, h5⟩ := hs
    exact ⟨h1, h2, fun _ => rfl, fun _ => h, h5⟩

theorem Keeps.halt {s : State} (h : s.link.onLine = none) (c : FaultCause) (stamp : Time) :
    Keeps s (s.halt c stamp) :=
  (((Keeps.setLaser s .off).trans (Keeps.assertWfault _)).trans (Keeps.writeFault _ c stamp)).trans
    (Keeps.of_halted (by simpa using h))

/-! ### The station's own frames (R133 to R135) -/

theorem keyCount_of_perm {q q' : List TxEntry} (h : (q'.map TxEntry.key).Perm (q.map TxEntry.key))
    (hq : QueueBounds q) : QueueBounds q' :=
  hq.of_subperm h.subperm

theorem startedEntry_key (s : State) (e : TxEntry) : (s.startedEntry e).key = e.key := by
  unfold State.startedEntry
  split <;> rfl

theorem Keeps.startFrame {s : State} {e : TxEntry} (he : e ∈ s.link.queue) (helig : s.eligible e = true) :
    Keeps s (s.startFrame e) := by
  have hst : s.station ≠ .setup ∧ s.station ≠ .halted := by
    constructor <;> intro h <;> simp [State.eligible, h] at helig
  have hplans : ∀ u : State, Keeps u { u with plans := u.plans.startClaim e } := fun u =>
    Keeps.of_sameParts (by cases e <;> simp [SameParts, PlanQueue.startClaim])
  refine Keeps.trans (t := { s with link := (s.startFrame e).link })
    (Keeps.of_link fun hl _ => ⟨?_, fun h => absurd h hst.1⟩) (hplans _)
  rw [linkSound_iff] at hl ⊢
  obtain ⟨h1, h2, h3, _, _⟩ := hl
  refine ⟨keyCount_of_perm (q := s.link.queue) ?_ h1, h2, h3, fun h => absurd h hst.2, fun h => absurd rfl h⟩
  show ((s.startedEntry e :: s.link.queue.erase e).map TxEntry.key).Perm (s.link.queue.map TxEntry.key)
  rw [List.map_cons, startedEntry_key, ← List.map_cons]
  exact (List.perm_cons_erase he).symm.map _

theorem QueueBounds.afterSent {q : List TxEntry} (h : QueueBounds q) : QueueBounds (afterSent q) := by
  unfold Machine.afterSent
  split
  · exact keyCount_of_perm (.refl _) h
  · exact keyCount_of_perm (.refl _) h
  · exact h.sublist (List.sublist_cons_self _ _)
  · exact h

theorem Keeps.completed {s : State} {o : OnLine} (ho : s.link.onLine = some o) (d : Bool) :
    Keeps s { s with link := s.link.completed d } := by
  refine Keeps.of_link fun hl hc => ⟨?_, fun h => ?_⟩
  · rw [linkSound_iff] at hl ⊢
    obtain ⟨h1, _, _, _, h5⟩ := hl
    refine ⟨?_, by simp [Link.completed], by simp [Link.completed], fun _ => rfl, h5⟩
    cases d
    · exact h1.afterSent
    · exact h1
  · have := (hc h).2.2.2.2.1
    simp [ho] at this

theorem Keeps.claimVerdict {s : State} (r : Record) (v : Verdict) (hint : Option Time)
    (h : s.plans.records ≠ []) : Keeps s (s.claimVerdict r v hint) := by
  unfold State.claimVerdict
  dsimp only
  repeat' split
  all_goals first | exact Keeps.finish _ _ h | exact Keeps.updateRecord _ _ _

theorem not_setup_or_listen {s : State} (h : s.takesFrames = true) :
    ¬(s.station = .setup ∨ s.station = .listen) := by
  obtain ⟨h1, h2, _⟩ := station_of_takesFrames h
  exact not_or.2 ⟨h1, h2⟩

theorem Keeps.admitted {s : State} (h : s.takesFrames = true) (n : Station) (stamp : Time) (number kind : Byte)
    (ws we : Time) (level : Byte) : Keeps s { s with
      table := (admission (purge s.table stamp) s.config.bTotal n stamp number kind ws we level).2 } :=
  Keeps.of_table (station_of_takesFrames h).1 fun ht _ =>
    ht.admission (not_setup_or_listen h) n stamp number kind ws we level

theorem Keeps.loopClaim {s : State} (h : s.takesFrames = true) (stamp : Time) (n : Nat) (k : PlanKind)
    (ws we : Time) (level : Nat) : Keeps s (s.loopClaim stamp n k ws we level) := by
  have hset := (station_of_takesFrames h).1
  have hadm := Keeps.admitted h s.number stamp (BitVec.ofNat 8 n) (kindByte k) ws we (BitVec.ofNat 8 level)
  unfold State.loopClaim
  dsimp only
  split
  · rename_i hclaim
    split
    · rename_i r hr
      exact (hadm.trans (Keeps.claimVerdict r _ _ (records_ne_nil_of_claiming hr))).trans
        (Keeps.errorTaken (by simpa using hset))
    · exact hadm.trans (Keeps.errorTaken hset)
  · split
    · rename_i r hr
      exact hadm.trans (Keeps.claimVerdict r _ _ (records_ne_nil_of_claiming hr))
    · exact hadm

theorem Keeps.purged (s : State) (stamp : Time) : Keeps s { s with table := purge s.table stamp } :=
  Keeps.of_subtable (purge_sublist _ _)

/-- A RELEASE that purges the table and changes it where it has no protocol error (R24). -/
theorem Keeps.released {s : State} (h : s.takesFrames = true) (stamp : Time) (n : Station) (number : Nat)
    (x : Time) : Keeps s { s with table := applyRelease (purge s.table stamp) n number x } :=
  Keeps.of_table (station_of_takesFrames h).1 fun ht _ =>
    (ht.sublist (purge_sublist s.table stamp)).applyRelease n number x

theorem Keeps.loopRelease {s : State} (h : s.takesFrames = true) (stamp : Time) (n : Nat) (x : Time) :
    Keeps s (s.loopRelease stamp n x) := by
  have hset := (station_of_takesFrames h).1
  have hplans : ∀ u : State, Keeps u { u with plans := u.plans.releaseSent n } := fun u =>
    Keeps.of_sameParts (by simp [SameParts, PlanQueue.releaseSent])
  unfold State.loopRelease
  dsimp only
  split
  · exact ((Keeps.purged s stamp).trans (hplans _)).trans (Keeps.errorTaken hset)
  · exact (Keeps.released h stamp s.number n x).trans (hplans _)

theorem Keeps.loopback (s : State) (f : LinkFrame) : Keeps s (s.loopback f) := by
  unfold State.loopback
  split
  · rename_i h
    split
    · exact Keeps.loopClaim h _ _ _ _ _ _
    · exact Keeps.loopRelease h _ _ _
    · exact Keeps.purged s _
    · rename_i stamp _
      have hjoined := Keeps.trans (t := { s with table := removeStation (purge s.table stamp) s.number })
        (Keeps.of_subtable ((List.filter_sublist).trans (purge_sublist _ _)))
        (Keeps.of_peers_rest (p := { s.peers with joinSent := true }) rfl rfl rfl)
      dsimp only
      split
      · exact hjoined.trans (Keeps.becomeRequester h)
      · exact hjoined
    · split
      · exact Keeps.becomeRequester h
      · exact Keeps.refl s
    · exact Keeps.refl s
    · rename_i stamp _
      dsimp only
      split
      · exact (Keeps.purged s stamp).trans (Keeps.endResync h)
      · exact Keeps.purged s stamp
  · exact Keeps.refl s

theorem Keeps.complete {s : State} {o : OnLine} (ho : s.link.onLine = some o) : Keeps s (s.complete o) := by
  unfold State.complete
  dsimp only
  split
  · exact Keeps.completed ho _
  · exact (Keeps.completed ho _).trans (Keeps.loopback _ _)

/-- The station is in no state that forbids a frame on the line. -/
theorem LinkSound.not_halted {s : State} (h : LinkSound s) {o : OnLine} (ho : s.link.onLine = some o) :
    s.station ≠ .halted := by
  rw [linkSound_iff] at h
  intro hs
  simp [h.2.2.2.1 hs] at ho

theorem SetupClean.not_setup {s : State} (h : SetupClean s) {o : OnLine} (ho : s.link.onLine = some o) :
    s.station ≠ .setup := by
  intro hs
  simp [(h hs).2.2.2.2.1] at ho

theorem Keeps.dropped {s : State} {o : OnLine} (ho : s.link.onLine = some o) :
    Keeps s { s with link := s.link.dropped } := by
  refine Keeps.of_link fun hl hc => ⟨?_, fun h => absurd h (hc.not_setup ho)⟩
  rw [linkSound_iff] at hl ⊢
  obtain ⟨h1, h2, h3, _, _⟩ := hl
  exact ⟨h1, h2, h3, fun _ => rfl, fun _ => rfl⟩

/-- A collision that is not the fourth in a row. -/
theorem Keeps.collidedOnce {s : State} {o : OnLine} (ho : s.link.onLine = some o)
    (h : ¬ 4 ≤ s.link.collidedOnce.collisions) : Keeps s { s with link := s.link.collidedOnce } := by
  have hcount : s.link.collidedOnce.collisions = s.link.collisions + 1 := rfl
  refine Keeps.of_link fun hl hc => ⟨?_, fun hs => absurd hs (hc.not_setup ho)⟩
  rw [linkSound_iff] at hl ⊢
  obtain ⟨h1, _, _, _, _⟩ := hl
  exact ⟨h1, by simp only; omega, by simp only; omega, fun _ => rfl, fun _ => rfl⟩

/-- The fourth collision in a row, with the halt that it brings. -/
theorem Keeps.collidedHalted {s : State} {o : OnLine} (ho : s.link.onLine = some o) :
    Keeps s { s with link := s.link.collidedOnce, station := .halted } := by
  refine ⟨rfl, id, fun hs _ => ?_, id, id, fun hs => ?_, fun hl hc => ⟨?_, fun h => by cases h⟩⟩
  · obtain ⟨h1, h2, h3, h4, _⟩ := hs
    exact ⟨h1, h2, h3, h4, by simp⟩
  · rw [peersSound_iff] at hs ⊢
    exact ⟨hs.1, hs.2.1, by simp, by simp, by simp⟩
  · have hnot := hl.not_halted ho
    rw [linkSound_iff] at hl ⊢
    obtain ⟨h1, h2, h3, _, _⟩ := hl
    have hne : s.link.collisions ≠ 4 := fun h => hnot (h3 h)
    exact ⟨h1, by simp only [Link.collidedOnce]; omega, fun _ => rfl, fun _ => rfl, fun _ => rfl⟩

theorem Keeps.claimCollided (s : State) (n : Nat) : Keeps s (s.claimCollided n) := by
  unfold State.claimCollided
  split
  · exact Keeps.refl s
  · rename_i r hr
    have hne := records_ne_nil_of_claiming hr
    have hqueued := Keeps.updateRecord s r.tag (fun x => { x with state := .queued })
    dsimp only
    repeat' split
    all_goals first | exact hqueued.trans (Keeps.finish _ _ (by simpa using hne)) | exact hqueued

/-- Everything that the laws read of a halt is in the link, the station state and what the state had before. -/
theorem halt_sameParts (s : State) (c : FaultCause) (stamp : Time) :
    SameParts { s with station := .halted } (s.halt c stamp) := by
  obtain ⟨_, h⟩ := halt_eq s c stamp
  rw [h]
  simp [SameParts]

theorem Keeps.collide {s : State} {o : OnLine} (ho : s.link.onLine = some o) : Keeps s (s.collide o) := by
  unfold State.collide
  split
  · exact Keeps.dropped ho
  · dsimp only
    split
    · refine (Keeps.collidedHalted ho).trans ?_
      split
      · unfold State.claimReturned
        split
        · exact Keeps.of_sameParts (halt_sameParts _ _ _)
        · exact Keeps.trans (Keeps.updateRecord { s with link := s.link.collidedOnce, station := .halted } _ _)
            (Keeps.of_sameParts (halt_sameParts _ _ _))
      · exact Keeps.of_sameParts (halt_sameParts _ _ _)
    · rename_i hfour
      split
      · exact (Keeps.collidedOnce ho hfour).trans (Keeps.claimCollided _ _)
      · exact Keeps.collidedOnce ho hfour

/-! ### Frames of other units (R136, R144) -/

theorem Keeps.frameTaken (s : State) : Keeps s { s with link := s.link.frameTaken } := by
  refine Keeps.of_link fun hl hc => ⟨?_, fun h => ?_⟩
  · rw [linkSound_iff] at hl ⊢
    obtain ⟨h1, h2, h3, h4, _⟩ := hl
    exact ⟨h1, h2, h3, h4, fun h => absurd rfl h⟩
  · obtain ⟨h1, h2, h3, h4, h5, _⟩ := hc h
    exact ⟨h1, h2, h3, h4, h5, rfl⟩

theorem Keeps.foreignLevel (s : State) : Keeps s s.foreignLevel := by
  unfold State.foreignLevel
  split
  · exact Keeps.of_link fun hl hc => ⟨hl, hc⟩
  · exact Keeps.refl s

theorem receives_iff (s : State) : s.receives = true ↔ s.pins.rstn = true ∧ s.readsLine = true
    ∧ s.link.onLine = none ∧ s.link.receiver ≠ .waitingIdle ∧ s.link.receiver ≠ .discarding := by
  simp [State.receives, and_assoc]

/-- A frame of another unit keeps the laws where what its kind does keeps them. -/
theorem Keeps.takeFrame {s : State} {act : State → State} (n : Station) (stamp : Option Time)
    (h : ∀ u : State, u.readsLine = true → n ≠ u.number → Keeps u (act u)) : Keeps s (s.takeFrame n stamp act) := by
  unfold State.takeFrame
  split
  · rename_i hr
    obtain ⟨_, hreads, hline, _⟩ := (receives_iff s).1 hr
    refine (Keeps.frameTaken s).trans ?_
    dsimp only
    split
    · unfold State.ownNumberFrame
      split
      · exact Keeps.writeFault _ _ _
      · exact Keeps.halt (s := { s with link := s.link.frameTaken }) hline _ _
    · rename_i hn
      exact h _ hreads hn
  · exact Keeps.foreignLevel s

theorem Keeps.purgeAt (s : State) (stamp : Time) : Keeps s (s.purgeAt stamp) := by
  unfold State.purgeAt
  split
  · exact Keeps.purged s stamp
  · exact Keeps.refl s

theorem Keeps.peerJoin {s : State} (hset : s.station ≠ .setup) {n : Station} (hn : n ≠ s.number) (stamp : Time)
    (unit : BitVec 32) (pulse : Bool) : Keeps s (s.peerJoin n stamp unit pulse) := by
  have htail : ∀ u : State, u.station ≠ .setup → n ≠ u.number →
      Keeps u ((((u.adopt stamp pulse).dropAwaited n).heardJoin n unit).help n) := fun u hu hnu =>
    (((Keeps.adopt u stamp pulse).trans (Keeps.dropAwaited (by simpa using hu) n)).trans
      (Keeps.heardJoin (by simpa using hnu) unit)).trans (Keeps.help n)
  unfold State.peerJoin
  dsimp only
  split
  · exact Keeps.trans (t := { s with table := removeStation (purge s.table stamp) n })
      (Keeps.of_subtable ((List.filter_sublist).trans (purge_sublist _ _))) (htail _ hset hn)
  · exact htail s hset hn

theorem Keeps.peerBeacon {s : State} (hset : s.station ≠ .setup) {n : Station} (hn : n ≠ s.number) (stamp : Time)
    (d : BitVec 16) (claims sync : Byte) (pulse : Bool) : Keeps s (s.peerBeacon n stamp d claims sync pulse) :=
  (((Keeps.purgeAt s stamp).trans (Keeps.adopt _ stamp pulse)).trans
    (Keeps.desyncIf (by simpa using hset) _)).trans (Keeps.heardDigest (by simpa using hn) d)

theorem Keeps.peerClaim {s : State} (hset : s.station ≠ .setup) {n : Station} (hn : n ≠ s.number) (stamp : Time)
    (number kind : Byte) (ws we : Time) (level : Byte) (pulse : Bool) :
    Keeps s (s.peerClaim n stamp number kind ws we level pulse) := by
  have hadopt := Keeps.adopt s stamp pulse
  have hset' : (s.adopt stamp pulse).station ≠ .setup := by simpa using hset
  have htail : ∀ u : State, u.station ≠ .setup → n ≠ u.number →
      Keeps u ((u.desyncIf (s.peers.stranger n)).heard n) := fun u hu hnu =>
    (Keeps.desyncIf hu _).trans (Keeps.heard (by simpa using hnu))
  unfold State.peerClaim
  dsimp only
  split
  · rename_i h
    have hadm := hadopt.trans (Keeps.admitted h n stamp number kind ws we level)
    split
    · exact (hadm.trans (Keeps.errorTaken hset')).trans (htail _ (by simpa using hset) (by simpa using hn))
    · exact hadm.trans (htail _ hset' (by simpa using hn))
  · exact hadopt.trans (htail _ hset' (by simpa using hn))

theorem Keeps.peerRelease {s : State} (hset : s.station ≠ .setup) {n : Station} (hn : n ≠ s.number) (stamp : Time)
    (number : Byte) (x : Time) (pulse : Bool) : Keeps s (s.peerRelease n stamp number x pulse) := by
  have hadopt := Keeps.adopt s stamp pulse
  have hset' : (s.adopt stamp pulse).station ≠ .setup := by simpa using hset
  have htail : ∀ u : State, u.station ≠ .setup → n ≠ u.number →
      Keeps u ((u.desyncIf (s.peers.stranger n)).heard n) := fun u hu hnu =>
    (Keeps.desyncIf hu _).trans (Keeps.heard (by simpa using hnu))
  unfold State.peerRelease
  dsimp only
  split
  · rename_i h
    split
    · exact ((hadopt.trans (Keeps.purged _ stamp)).trans (Keeps.errorTaken hset')).trans
        (htail _ (by simpa using hset) (by simpa using hn))
    · exact (hadopt.trans (Keeps.released h stamp n number.toNat x)).trans (htail _ hset' (by simpa using hn))
  · exact hadopt.trans (htail _ hset' (by simpa using hn))

theorem Keeps.peerSyncRequest {s : State} (hset : s.station ≠ .setup) {n : Station} (hn : n ≠ s.number) :
    Keeps s (s.peerSyncRequest n) :=
  ((Keeps.desyncIf hset _).trans (Keeps.heard (by simpa using hn))).trans (Keeps.help n)

/-- What a requester inserts: only JOINING and ACTIVE stations are requesters (R154). -/
theorem Keeps.inserted {s : State} (hset : s.station ≠ .setup) (hreq : s.peers.requester = true) (n : Station)
    (entries : List AnnounceEntry) :
    Keeps s { s with table := (insertAnnounced s.config.bTotal n s.table entries).1 } :=
  Keeps.of_table hset fun ht hp => by
    obtain ⟨_, hiff, hnone, _, _⟩ := (peersSound_iff s).1 hp
    refine ht.insertAnnounced (fun hst => ?_) n entries
    have := hnone hst
    rw [hiff.1 hreq] at this
    cases this

theorem Keeps.peerAnnounce {s : State} (hset : s.station ≠ .setup) {n : Station} (hn : n ≠ s.number)
    (final : Byte) (entries : List AnnounceEntry) : Keeps s (s.peerAnnounce n final entries) := by
  unfold State.peerAnnounce
  dsimp only
  split
  · rename_i hreq
    have hins := Keeps.inserted hset hreq n entries
    split
    · split
      · exact hins.trans (Keeps.heard hn)
      · exact (hins.trans (Keeps.heardFinal hn)).trans (Keeps.completeIfCollected (by simpa using hset))
    · exact (hins.trans (Keeps.abandon hset hreq)).trans (Keeps.heard (by simpa using hn))
  · exact (Keeps.desyncIf hset _).trans (Keeps.heard (by simpa using hn))

theorem Keeps.peerSyncDone {s : State} (hset : s.station ≠ .setup) {n : Station} (hn : n ≠ s.number) (stamp : Time)
    (d : BitVec 16) (pulse : Bool) : Keeps s (s.peerSyncDone n stamp d pulse) := by
  have hheard : ∀ b, Keeps s ((((s.purgeAt stamp).adopt stamp pulse).desyncIf b).heardDigest n d) := fun b =>
    (((Keeps.purgeAt s stamp).trans (Keeps.adopt _ stamp pulse)).trans
      (Keeps.desyncIf (by simpa using hset) _)).trans (Keeps.heardDigest (by simpa using hn) d)
  unfold State.peerSyncDone
  dsimp only
  split
  · exact (hheard _).trans (Keeps.of_peers_rest rfl rfl rfl)
  · exact hheard _

theorem Keeps.frameError {s : State} (hset : s.station ≠ .setup) (low : Bool) : Keeps s (s.frameError low) := by
  refine Keeps.trans (Keeps.of_link (l := { s.link with
    receiver := .discarding, assembly := [],
    postSend := s.link.postSend && decide (s.link.receiver = .receiving) && !low })
    fun hl _ => ⟨?_, fun h => absurd h hset⟩) (Keeps.errorTaken hset)
  rw [linkSound_iff] at hl ⊢
  obtain ⟨h1, h2, h3, h4, _⟩ := hl
  exact ⟨h1, h2, h3, h4, fun h => absurd rfl h⟩

/-! ### Entry to LISTEN: RESTART and spindle loss (R11 to R13, R142, R173) -/

theorem Keeps.linkClear (s : State) : Keeps s { s with link := s.link.clear } := by
  refine Keeps.of_link fun hl hc => ⟨?_, fun h => ?_⟩
  · rw [linkSound_iff] at hl ⊢
    obtain ⟨_, _, _, h4, h5⟩ := hl
    exact ⟨queueBounds_nil, by simp [Link.clear], by simp [Link.clear],
      fun h => by simp [Link.clear, h4 h], h5⟩
  · obtain ⟨h1, h2, h3, _, h5, h6⟩ := hc h
    exact ⟨h1, h2, h3, rfl, by simp [Link.clear, h5], h6⟩

/-- The shared view is lost: an empty table, a cleared Peer Block, the station in LISTEN unless it is in SETUP. -/
theorem Keeps.viewCleared {s : State} (hs : s.station ≠ .halted) :
    Keeps s { s with table := [], peers := PeerBlock.cleared s.number,
                     station := if s.station = .setup then .setup else .listen } := by
  refine ⟨rfl, id, fun _ _ => ?_, id, id, fun _ => ?_, fun hl hc => ⟨?_, fun h => ?_⟩⟩
  · exact ⟨by simp, List.Pairwise.nil, by simp, fun t => by simp, fun _ => rfl⟩
  · rw [peersSound_iff]
    refine ⟨peerTableSound_cleared s.number, by simp [PeerBlock.cleared], fun _ => rfl, ?_, ?_⟩ <;>
      simp only <;> split <;> simp
  · rw [linkSound_iff] at hl ⊢
    obtain ⟨h1, h2, h3, _, h5⟩ := hl
    refine ⟨h1, h2, fun h => absurd (h3 h) hs, fun h => ?_, h5⟩
    simp only at h
    split at h <;> cases h
  · simp only at h
    have hset : s.station = .setup := by
      by_contra hne
      simp [hne] at h
    obtain ⟨h1, _, hrest⟩ := hc hset
    exact ⟨h1, rfl, hrest⟩

theorem Keeps.restart {s : State} (h : s.readsLine = true) : Keeps s s.restart := by
  obtain ⟨hset, hhalt⟩ := station_of_readsLine h
  let dark := (s.setLaser .off).assertWfault
  let idle : State := { dark with
    seq := dark.seq.idle, burst := none, search := none,
    plans := { records := [], finished := [], accepted := s.plans.accepted } }
  have hdark : Keeps s dark := (Keeps.setLaser s .off).trans (Keeps.assertWfault _)
  have hidle : Keeps dark idle := Keeps.of_sameParts (by simp [SameParts, idle, Sequencer.idle])
  have hstore : Keeps idle { idle with store := idle.store.interrupt } := Keeps.of_storeLaw StoreLaw.interrupt
  have hview := Keeps.viewCleared (s := { idle with store := idle.store.interrupt, link := idle.link.clear })
    (by simpa [idle, dark] using hhalt)
  have hall := ((hdark.trans hidle).trans hstore).trans ((Keeps.linkClear _).trans hview)
  have heq : s.restart = { idle with
      store := idle.store.interrupt, link := idle.link.clear, table := [], peers := PeerBlock.cleared idle.number,
      station := if idle.station = .setup then .setup else .listen } := by
    have hst : idle.station ≠ .setup := by simpa [idle, dark] using hset
    simp only [State.restart, hst, if_false]
    simp [idle, dark]
  rw [heq]
  exact hall

theorem Keeps.loseSpindle {s : State} (hs : s.station ≠ .halted) : Keeps s s.loseSpindle := by
  let dark := (s.setLaser .off).assertWfault
  let ended := dark.finishAll (dark.plans.records.filter Record.live) s.spindleEnding
  let idle : State := { ended with
    plans := ended.plans.clearReleases, seq := ended.seq.idle, burst := none, search := none }
  let cleared : State := { idle with link := idle.link.clear }
  let left := cleared.resolvePendingSwap.afterBurst ((s.burst.map Burst.head).getD 0)
    (s.burst.map (fun b => b.report s.config.deviationThreshold))
  have hdark : Keeps s dark := (Keeps.setLaser s .off).trans (Keeps.assertWfault _)
  have hended : Keeps dark ended := Keeps.finishFilter _ _ _
  have hidle : Keeps ended idle := Keeps.of_sameParts (by
    simp [SameParts, idle, Sequencer.idle, PlanQueue.clearReleases])
  have hleft : Keeps cleared left := (Keeps.resolvePendingSwap _).trans (Keeps.afterBurst _ _ _)
  have hview := Keeps.viewCleared (s := left) (by simpa [left, cleared, idle, ended, dark] using hs)
  exact ((((hdark.trans hended).trans hidle).trans (Keeps.linkClear idle)).trans hleft).trans
    (hview.trans (Keeps.writeFault _ .spindleLost _))

/-! ### Power-on (R174) -/

/-- The power-on values of every block, under the number, the lines, the queue and the free index given. -/
def poweredOn (number : Station) (pins : Pins) (pending : List Instr) (free : Nat) : State :=
  { State.reset with
    pending := pending, free := free, pins := pins, number := number, peers := PeerBlock.cleared number }

theorem reset_eq_poweredOn : State.reset = poweredOn 0 State.reset.pins [] 0 := rfl

section
variable (number : Station) (pins : Pins) (pending : List Instr) (free : Nat)

theorem clockSound_poweredOn : ClockSound (poweredOn number pins pending free) := by
  simp [ClockSound, poweredOn, State.reset, Clock.powerOn]

theorem tableSound_poweredOn : TableSound (poweredOn number pins pending free) := by
  simp [TableSound, poweredOn, State.reset]

theorem storeSound_poweredOn : StoreSound (poweredOn number pins pending free) :=
  ⟨bankSound_erased, bankSound_erased, .inl rfl, by
    simp [poweredOn, State.reset, ProfileStore.powerOn, ProfileStore.standbyBank, Bank.erased], by
    simp [poweredOn, State.reset, ProfileStore.powerOn]⟩

theorem headsSound_poweredOn : HeadsSound (poweredOn number pins pending free) := by
  refine ⟨by simp [poweredOn, State.reset], fun h hh => ?_, by simp [poweredOn, State.reset]⟩
  have hh : h ∈ List.replicate 16 HeadRecord.powerOn := hh
  rw [(List.mem_replicate.1 hh).2]
  exact headSound_powerOn

theorem peersSound_poweredOn : PeersSound (poweredOn number pins pending free) := by
  rw [peersSound_iff]
  refine ⟨peerTableSound_cleared number, ?_⟩
  simp [SyncSound, poweredOn, State.reset, PeerBlock.cleared]

theorem linkSound_poweredOn : LinkSound (poweredOn number pins pending free) := by
  rw [linkSound_iff]
  simp [poweredOn, State.reset, Link.powerOn, queueBounds_nil]

theorem setupClean_poweredOn : SetupClean (poweredOn number pins pending free) := by
  simp [SetupClean, poweredOn, State.reset, Sequencer.powerOn, Link.powerOn]

theorem queueSound_poweredOn : QueueSound (poweredOn number pins pending free) := by
  simp [QueueSound, poweredOn, State.reset]

theorem sequencerSound_poweredOn : SequencerSound (poweredOn number pins pending free) := by
  simp [SequencerSound, poweredOn, State.reset, Sequencer.powerOn]

end

/-- Settles O60: reset is the power-on state of station 0. -/
theorem lawsHoldAtReset : Obligations.LawsHoldAtReset := by
  unfold Obligations.LawsHoldAtReset
  rw [reset_eq_poweredOn]
  exact ⟨clockSound_poweredOn _ _ _ _, tableSound_poweredOn _ _ _ _, queueSound_poweredOn _ _ _ _,
    sequencerSound_poweredOn _ _ _ _, storeSound_poweredOn _ _ _ _, headsSound_poweredOn _ _ _ _,
    peersSound_poweredOn _ _ _ _, linkSound_poweredOn _ _ _ _, setupClean_poweredOn _ _ _ _⟩

theorem Keeps.poweredOn (s : State) (number : Station) (pins : Pins) (free : Nat) :
    Keeps s (poweredOn number pins s.pending free) :=
  ⟨rfl, fun _ => clockSound_poweredOn _ _ _ _, fun _ _ => tableSound_poweredOn _ _ _ _,
    fun _ => storeSound_poweredOn _ _ _ _, fun _ => headsSound_poweredOn _ _ _ _,
    fun _ => peersSound_poweredOn _ _ _ _,
    fun _ _ => ⟨linkSound_poweredOn _ _ _ _, setupClean_poweredOn _ _ _ _⟩⟩

end Sys2Proof.Machine
end

section
/-! PROOFS. Every command keeps the laws of the blocks: the commands one by one, then the step. -/

namespace Sys2Proof.Machine

/-- A command answers a next state, and that state keeps the laws. -/
def AnswersKeeping (s : State) (a : Answer) : Prop := ∃ t, a = .next t ∧ Keeps s t

theorem AnswersKeeping.next {s t : State} (h : Keeps s t) : AnswersKeeping s (.next t) := ⟨t, rfl, h⟩

/-! ### Requests of the plan port (chapters 3, 6, 7 and 10) -/

theorem execConfigure_keeps (p : List Byte) (s : State) : AnswersKeeping s (execConfigure p s) := by
  refine .next (Keeps.request _ _ _ fun _ => ?_)
  split
  · exact Keeps.answer _ _ _ _
  · rename_i hset
    rw [ne_eq, not_not] at hset
    split
    · exact Keeps.answer _ _ _ _
    · rename_i c _
      split
      · refine Keeps.trans (t := { s with config := c }) ⟨rfl, id, fun h _ => ?_, id, id, id, fun h h' => ⟨h, h'⟩⟩
          (Keeps.answer _ _ _ _)
        obtain ⟨h1, h2, h3, _, h5⟩ := h
        exact ⟨h1, h2, h3, fun t => by simp [h5 (.inl hset)], h5⟩
      · exact Keeps.answer _ _ _ _

theorem Keeps.widenFence (s : State) (f : Fence) : Keeps s (s.widenFence f) :=
  Keeps.trans (t := { s with restrictions := { s.restrictions with fence := f } })
    (Keeps.of_sameParts (by simp [SameParts])) (Keeps.finishFilter _ _ _)

/-- START takes a station from SETUP, where no frame is being assembled, to the wait of LISTEN (R146, R167). -/
theorem Keeps.entersListen {s : State} (hset : s.station = .setup) :
    Keeps s { s with station := .listen, peers := s.peers.enterListen,
                     link := { s.link with receiver := .waitingIdle } } := by
  refine ⟨rfl, id, fun h _ => ?_, id, id, fun h => ?_, fun hl hc => ⟨?_, fun h => by cases h⟩⟩
  · obtain ⟨h1, h2, h3, h4, h5⟩ := h
    exact ⟨h1, h2, h3, h4, fun _ => h5 (.inl hset)⟩
  · rw [peersSound_iff] at h ⊢
    exact ⟨h.1, by simp [PeerBlock.enterListen], fun _ => rfl, by simp, by simp⟩
  · have hasm := (hc hset).2.2.2.2.2
    rw [linkSound_iff] at hl ⊢
    obtain ⟨h1, h2, h3, _, _⟩ := hl
    exact ⟨h1, h2, fun h => (by simpa [hset] using h3 h), fun h => (by cases h), fun h => absurd hasm h⟩

theorem execStart_keeps (p : List Byte) (s : State) : AnswersKeeping s (execStart p s) := by
  refine .next (Keeps.request _ _ _ fun _ => ?_)
  split
  · exact Keeps.answer _ _ _ _
  · rename_i hset
    rw [ne_eq, not_not] at hset
    split
    · exact Keeps.answer _ _ _ _
    · split
      · exact Keeps.answer _ _ _ _
      · have hfence : ∀ u, Keeps s u → u.station = .setup → Keeps s (State.answer { u with
            station := .listen, peers := u.peers.enterListen,
            link := { u.link with receiver := .waitingIdle } } 0x11 .ok) := fun u hu hst =>
          (hu.trans (Keeps.entersListen hst)).trans (Keeps.answer _ _ _ _)
        dsimp only
        split
        · exact hfence s (Keeps.refl s) hset
        · exact hfence _ (Keeps.widenFence s _) (by simpa using hset)

theorem execLoad_keeps (p : List Byte) (s : State) : AnswersKeeping s (execLoad p s) := by
  refine .next (Keeps.request _ _ _ fun _ => ?_)
  dsimp only
  split
  · exact Keeps.answer _ _ _ _
  · split
    · exact Keeps.answer _ _ _ _
    · split
      · exact Keeps.answer _ _ _ _
      · rename_i hrange
        split
        · exact Keeps.answer _ _ _ _
        · refine (Keeps.of_storeLaw fun h => h.beginLoad ?_).trans (Keeps.answer _ _ _ _)
          simp only [LoadSound, Load.begin]
          omega

theorem Keeps.takeDataFrame {s : State} {l : Load} (hl : s.store.load = some l) (p : List Byte) (more : Bool) :
    Keeps s (s.takeDataFrame p more l) := by
  have htake : Keeps s { s with store := s.store.takeData l p } := Keeps.of_storeLaw fun h => h.takeData hl p
  unfold State.takeDataFrame
  dsimp only
  split
  · exact Keeps.refl s
  · split
    · exact htake.trans (Keeps.answer _ _ _ _)
    · exact (Keeps.of_storeLaw fun h => (h.takeData hl p).endLoad _).trans (Keeps.answer _ _ _ _)

theorem execData_keeps (p : List Byte) (more : Bool) (s : State) : AnswersKeeping s (execData p more s) := by
  refine .next (Keeps.request _ _ _ fun _ => ?_)
  split
  · exact Keeps.answer _ _ _ _
  · split
    · exact Keeps.answer _ _ _ _
    · split
      · rename_i hl
        exact Keeps.takeDataFrame hl p more
      · exact Keeps.answer _ _ _ _

theorem execSwap_keeps (p : List Byte) (s : State) : AnswersKeeping s (execSwap p s) := by
  refine .next (Keeps.request _ _ _ fun _ => ?_)
  split
  · exact Keeps.answer _ _ _ _
  · split
    · exact Keeps.answer _ _ _ _
    · split
      · exact Keeps.answer _ _ _ _
      · rename_i hready
        rw [ne_eq, not_not] at hready
        split
        · exact (Keeps.of_storeLaw fun h => h.completeSwap (by simp [hready])).trans (Keeps.answer _ _ _ _)
        · have hasked : Keeps s { s with
              store := s.store.setStandby { s.store.standbyBank with state := .swapPending } } :=
            Keeps.of_storeLaw fun h => h.setState (by simp [hready]) (by simp)
          dsimp only
          split
          · exact (hasked.trans (Keeps.resolvePendingSwap _)).trans (Keeps.answer _ _ _ _)
          · exact hasked.trans (Keeps.answer _ _ _ _)

theorem execSetHead_keeps (p : List Byte) (s : State) : AnswersKeeping s (execSetHead p s) := by
  refine .next (Keeps.request _ _ _ fun _ => ?_)
  dsimp only
  split
  · exact Keeps.answer _ _ _ _
  · split
    · exact Keeps.answer _ _ _ _
    · rename_i hrange
      split
      · exact Keeps.answer _ _ _ _
      · split
        · exact Keeps.answer _ _ _ _
        · refine (Keeps.setHeadRecord _ fun _ => ?_).trans (Keeps.answer _ _ _ _)
          simp only [HeadSound]
          omega

theorem execReadHead_keeps (p : List Byte) (s : State) : AnswersKeeping s (execReadHead p s) := by
  refine .next (Keeps.request _ _ _ fun _ => ?_)
  dsimp only
  split <;> exact Keeps.answer _ _ _ _

/-- The acceptance checks pass a record in ACTIVE alone (Tables 3-4 and 3-5). -/
theorem postChecks_active {s : State} {x : PostRequest} {r : Record} (h : (s.postChecks x).2 = some r) :
    s.station = .active := by
  by_contra hst
  simp [State.postChecks, hst] at h

theorem calibrateChecks_active {s : State} {x : PostRequest} {r : Record}
    (h : (s.calibrateChecks x).2 = some r) : s.station = .active := by
  by_contra hst
  simp [State.calibrateChecks, hst] at h

/-- An accepted record joins in ACTIVE, with its CLAIM (R43). -/
theorem Keeps.acceptOrRefuse {s : State} (kind : Byte) {v : Result × Option Record}
    (h : ∀ r, v.2 = some r → s.station = .active) : Keeps s (s.acceptOrRefuse kind v) := by
  unfold State.acceptOrRefuse
  split
  · rename_i r hr
    have hst := h r hr
    refine Keeps.trans (t := s.accept r) ?_ (Keeps.answer _ _ _ _)
    refine Keeps.trans (t := { s with link := (s.accept r).link })
      (Keeps.of_queueMoved' (enqueue_moved _ (.inl ⟨_, rfl⟩)) (by simp [hst]))
      ⟨rfl, id, fun h _ => h, id, id, id, fun hl _ => ⟨hl, fun h => ?_⟩⟩
    simp [State.accept, hst] at h
  · exact Keeps.answer _ _ _ _

theorem execPost_keeps (p : List Byte) (s : State) : AnswersKeeping s (execPost p s) :=
  .next (Keeps.request _ _ _ fun _ => Keeps.acceptOrRefuse _ fun _ => postChecks_active)

theorem execCalibrate_keeps (p : List Byte) (s : State) : AnswersKeeping s (execCalibrate p s) :=
  .next (Keeps.request _ _ _ fun _ => Keeps.acceptOrRefuse _ fun _ => calibrateChecks_active)

theorem Keeps.cancelRecord {s : State} (r : Record) (m : CancelMode) (h : s.plans.records ≠ []) :
    Keeps s (s.cancelRecord r m) := by
  unfold State.cancelRecord
  split
  · exact Keeps.finish _ _ h
  · exact Keeps.updateRecord _ _ _
  · exact Keeps.finish _ _ h
  · split
    · exact Keeps.endPlan _ _ _ _ h
    · exact Keeps.updateRecord _ _ _
  · split
    · exact Keeps.endPlan _ _ _ _ h
    · exact Keeps.updateRecord _ _ _
  · split
    · exact (Keeps.assertWfault s).trans (Keeps.endPlan _ _ _ _ (by simpa using h))
    · exact Keeps.updateRecord _ _ _
  · split
    · exact (Keeps.assertWfault s).trans (Keeps.endPlan _ _ _ _ (by simpa using h))
    · exact Keeps.updateRecord _ _ _
  · exact Keeps.endPlan _ _ _ _ h
  · exact Keeps.endPlan _ _ _ _ h
  · exact Keeps.endPlan _ _ _ _ h
  · exact Keeps.refl s
  · exact Keeps.refl s

theorem execCancel_keeps (p : List Byte) (s : State) : AnswersKeeping s (execCancel p s) := by
  refine .next (Keeps.request _ _ _ fun _ => ?_)
  split
  · exact Keeps.answer _ _ _ _
  · split
    · exact Keeps.answer _ _ _ _
    · split
      · exact Keeps.answer _ _ _ _
      · rename_i hfind
        split
        · exact Keeps.answer _ _ _ _
        · exact (Keeps.cancelRecord _ _ (records_ne_nil_of_find hfind)).trans (Keeps.answer _ _ _ _)

theorem execQuery_keeps (p : List Byte) (s : State) : AnswersKeeping s (execQuery p s) := by
  refine .next (Keeps.request _ _ _ fun _ => ?_)
  split
  · exact Keeps.answer _ _ _ _
  · split <;> exact Keeps.answer _ _ _ _

theorem execCollect_keeps (p : List Byte) (s : State) : AnswersKeeping s (execCollect p s) := by
  refine .next (Keeps.request _ _ _ fun _ => ?_)
  split
  · exact Keeps.answer _ _ _ _
  · split
    · exact Keeps.answer _ _ _ _
    · rename_i r _
      exact Keeps.trans (t := { s with plans := s.plans.remove r.tag })
        (Keeps.of_sameParts (by simp +contextual [SameParts, PlanQueue.remove])) (Keeps.answer _ _ _ _)

theorem execStatus_keeps (p : List Byte) (s : State) : AnswersKeeping s (execStatus p s) :=
  .next (Keeps.request _ _ _ fun _ => Keeps.of_sameParts (by simp [SameParts]))

theorem execIdentify_keeps (p : List Byte) (s : State) : AnswersKeeping s (execIdentify p s) :=
  .next (Keeps.request _ _ _ fun _ => Keeps.answer _ _ _ _)

theorem Keeps.withdrawCapabilities (s : State) (cal load trim : Bool) :
    Keeps s (s.withdrawCapabilities cal load trim) := by
  let t : State := { s with restrictions := (s.withdrawCapabilities cal load trim).restrictions }
  have hrest : Keeps s t := Keeps.of_sameParts (by simp [SameParts, t])
  refine hrest.trans (Keeps.of_storeLaw (s := t) fun h => ?_)
  split
  · exact h.interrupt
  · exact h

theorem execWithdraw_keeps (p : List Byte) (s : State) : AnswersKeeping s (execWithdraw p s) := by
  refine .next (Keeps.request _ _ _ fun _ => ?_)
  split
  · exact Keeps.answer _ _ _ _
  · split
    · exact Keeps.answer _ _ _ _
    · split
      · exact Keeps.answer _ _ _ _
      · dsimp only
        split
        · split
          · exact Keeps.answer _ _ _ _
          · exact (Keeps.withdrawCapabilities _ _ _ _).trans (Keeps.answer _ _ _ _)
        · split
          · exact Keeps.answer _ _ _ _
          · exact ((Keeps.withdrawCapabilities _ _ _ _).trans (Keeps.widenFence _ _)).trans (Keeps.answer _ _ _ _)

theorem execRestart_keeps (p : List Byte) (s : State) : AnswersKeeping s (execRestart p s) := by
  refine .next (Keeps.request _ _ _ fun _ => ?_)
  split
  · rename_i h
    exact (Keeps.restart h).trans (Keeps.answer _ _ _ _)
  · exact Keeps.answer _ _ _ _

theorem execPlanPortFrameError_keeps (s : State) : AnswersKeeping s (execPlanPortFrameError s) := by
  refine .next ?_
  split
  · exact Keeps.refl s
  · refine (Keeps.of_storeLaw fun h => ?_).trans (Keeps.answer _ _ _ _)
    split
    · exact h.dropLoad
    · exact h

theorem execUnknownKind_keeps (k : Byte) (p : List Byte) (s : State) : AnswersKeeping s (execUnknownKind k p s) := by
  refine .next ?_
  split
  · exact Keeps.refl s
  · exact Keeps.answer _ _ _ _

/-! ### The reset line and the clock (chapters 1 and 10) -/

theorem execPowerOn_eq (straps : Station) (s : State) :
    execPowerOn straps s = .next (poweredOn straps { s.pins with rstn := true } s.pending s.free) := rfl

theorem execPowerOn_keeps (straps : Station) (s : State) : AnswersKeeping s (execPowerOn straps s) :=
  .next (Keeps.poweredOn s straps { s.pins with rstn := true } s.free)

theorem Keeps.of_pins (s : State) (pins : Pins) : Keeps s { s with pins := pins } :=
  Keeps.of_sameParts (by simp [SameParts])

theorem execRstnFalls_keeps (s : State) : AnswersKeeping s (execRstnFalls s) := by
  refine .next ?_
  split
  · exact Keeps.refl s
  · let t : State := { (s.setLaser .off).releaseWfault with
      pins := { (s.setLaser .off).releaseWfault.pins with rstn := false } }
    have hpins : Keeps s t :=
      ((Keeps.setLaser s .off).trans (Keeps.releaseWfault _)).trans (Keeps.of_pins _ _)
    refine hpins.trans (Keeps.of_link (s := t) fun hl hc => ⟨?_, fun h => ?_⟩)
    · rw [linkSound_iff] at hl ⊢
      obtain ⟨h1, h2, h3, _, h5⟩ := hl
      exact ⟨h1, h2, h3, fun _ => rfl, h5⟩
    · obtain ⟨h1, h2, h3, h4, _, h6⟩ := hc h
      exact ⟨h1, h2, h3, h4, rfl, h6⟩

theorem execClockHold_keeps (s : State) : AnswersKeeping s (execClockHold s) := by
  refine .next ?_
  split
  · exact Keeps.atTime _ fun c => Keeps.of_advance { s with clock := c } 4095
  · exact Keeps.refl s

theorem lost_clockSound {s : State} (h : ClockSound s) : ClockSound { s with clock := s.clock.lost } :=
  ⟨h.1, fun h => by simp [Clock.lost] at h, rfl, fun h => by simp [Clock.lost] at h⟩

theorem execSpindleLoss_keeps (s : State) : AnswersKeeping s (execSpindleLoss s) := by
  have hclock : Keeps s { s with clock := s.clock.lost } := Keeps.of_clock lost_clockSound
  refine .next ?_
  split
  · dsimp only
    split
    · exact hclock.trans (Keeps.writeFault _ _ _)
    · rename_i hhalt
      exact hclock.trans (Keeps.loseSpindle hhalt)
  · exact Keeps.refl s

theorem execPeerLost_keeps (n : Station) (i : Nat) (s : State) : AnswersKeeping s (execPeerLost n i s) := by
  refine .next ?_
  split
  · exact Keeps.takePulse s i
  · exact Keeps.refl s

theorem execListenEnd_keeps (i : Nat) (s : State) : AnswersKeeping s (execListenEnd i s) := by
  refine .next ?_
  split
  · exact Keeps.takePulse s i
  · exact Keeps.refl s

theorem execResyncTimeout_keeps (i : Nat) (s : State) : AnswersKeeping s (execResyncTimeout i s) := by
  refine .next ?_
  split
  · exact Keeps.takePulse s i
  · exact Keeps.refl s

theorem execQuietTimeout_keeps (i : Nat) (s : State) : AnswersKeeping s (execQuietTimeout i s) := by
  refine .next ?_
  split
  · exact Keeps.takePulse s i
  · exact Keeps.refl s

/-! ### Gates, windows, deadlines and steps (chapter 4) -/

theorem Keeps.startWrite (s : State) (r : Record) (p : Profile) : Keeps s (s.startWrite r p) := by
  let t : State := s.updateRecord r.tag (fun x => { x with state := .writing })
  let u : State := { t with burst := some (Burst.opened r), seq := { t.seq with firstStep := true } }
  have hwriting : Keeps s t := Keeps.updateRecord _ _ _
  have hopened : Keeps t u := Keeps.of_sameParts (by simp [SameParts, u])
  exact (hwriting.trans hopened).trans (Keeps.playSample u r p .write 0 0)

theorem Keeps.strayGate (s : State) : Keeps s s.strayGate :=
  (Keeps.assertWfault s).trans (Keeps.writeFault _ _ _)

theorem Keeps.planGateRise {s : State} (r : Record) (h : s.plans.records ≠ []) : Keeps s (s.planGateRise r) := by
  unfold State.planGateRise
  split
  · exact Keeps.startWrite _ _ _
  · exact Keeps.clash _ h
  · exact (Keeps.assertWfault s).trans (Keeps.endPlan _ _ _ _ (by simpa using h))
  · exact (Keeps.assertWfault s).trans (Keeps.endPlan _ _ _ _ (by simpa using h))
  · exact (Keeps.assertWfault s).trans (Keeps.endPlan _ _ _ _ (by simpa using h))
  · exact Keeps.strayGate s
  · exact Keeps.refl s

theorem execWgateRise_keeps (s : State) : AnswersKeeping s (execWgateRise s) := by
  have hpins := Keeps.of_pins s { s.pins with wgate := true }
  refine .next ?_
  split
  · exact Keeps.refl s
  · dsimp only
    split
    · exact hpins
    · split
      · exact hpins.trans (Keeps.strayGate _)
      · split
        · rename_i hr
          exact hpins.trans (Keeps.planGateRise _ (records_ne_nil_of_current hr))
        · exact hpins.trans (Keeps.strayGate _)

theorem Keeps.planGateFall {s : State} (r : Record) (h : s.plans.records ≠ []) : Keeps s (s.planGateFall r) := by
  unfold State.planGateFall
  split
  · exact Keeps.enterTail _ _ _ h
  · exact Keeps.enterTail _ _ _ h
  · exact Keeps.refl s

theorem execWgateFall_keeps (s : State) : AnswersKeeping s (execWgateFall s) := by
  have hpins := Keeps.of_pins s { s.pins with wgate := false }
  have hreleased := hpins.trans (Keeps.releaseWfault _)
  refine .next ?_
  split
  · exact Keeps.refl s
  · dsimp only
    split
    · exact hpins
    · split
      · exact hreleased
      · split
        · rename_i hr
          exact hreleased.trans (Keeps.planGateFall _ (by simpa using records_ne_nil_of_current hr))
        · exact hreleased

theorem Keeps.planServoRise {s : State} (r : Record) (h : s.plans.records ≠ []) : Keeps s (s.planServoRise r) := by
  unfold State.planServoRise
  split
  · exact Keeps.pause _ _ _ _
  · split
    · exact Keeps.clash _ h
    · exact Keeps.pause _ _ _ _
  · split
    · exact Keeps.clash _ h
    · exact Keeps.pause _ _ _ _
  · exact Keeps.refl s

theorem execSgateRise_keeps (s : State) : AnswersKeeping s (execSgateRise s) := by
  have hpins := Keeps.of_pins s { s.pins with sgate := true }
  refine .next ?_
  split
  · exact Keeps.refl s
  · dsimp only
    split
    · split
      · rename_i hr
        exact hpins.trans (Keeps.planServoRise _ (records_ne_nil_of_current hr))
      · exact hpins
    · exact hpins

theorem Keeps.planServoFall {s : State} (r : Record) (h : s.plans.records ≠ []) : Keeps s (s.planServoFall r) := by
  unfold State.planServoFall
  split
  · exact (Keeps.updateRecord _ _ _).trans (Keeps.advancePreheat _ _ _ (by simpa using h))
  · exact Keeps.updateRecord _ _ _
  · exact (Keeps.updateRecord _ _ _).trans (Keeps.advanceWrite _ _ _ (by simpa using h))
  · exact Keeps.refl s

theorem execSgateFall_keeps (s : State) : AnswersKeeping s (execSgateFall s) := by
  have hpins := Keeps.of_pins s { s.pins with sgate := false }
  refine .next ?_
  split
  · exact Keeps.refl s
  · dsimp only
    split
    · split
      · rename_i hr
        exact hpins.trans (Keeps.planServoFall _ (records_ne_nil_of_current hr))
      · exact hpins
    · exact hpins

theorem execRailAlertRise_keeps (s : State) : AnswersKeeping s (execRailAlertRise s) := by
  have hpins := Keeps.of_pins s { s.pins with railAlert := true }
  refine .next ?_
  dsimp only
  split
  · split
    · rename_i hr
      exact (hpins.trans (Keeps.assertWfault _)).trans
        (Keeps.endPlan _ _ _ _ (by simpa using records_ne_nil_of_current hr))
    · exact hpins
  · exact hpins

theorem Keeps.openRail {s : State} (r : Record) (h : s.plans.records ≠ []) : Keeps s (s.openRail r) :=
  (Keeps.assertWfault s).trans (Keeps.finish _ _ (by simpa using h))

/-- The items of the sequencer as a window opens: SETUP, which holds no record, has none to open. -/
theorem Keeps.of_opening {s : State} (q : Sequencer) (h : s.plans.records ≠ []) : Keeps s { s with seq := q } :=
  Keeps.of_sameParts (by simp [SameParts, h])

theorem Keeps.openWrite {s : State} (r : Record) (p : Profile) (h : s.plans.records ≠ []) :
    Keeps s (s.openWrite r p) := by
  unfold State.openWrite
  dsimp only
  split
  · exact (Keeps.of_opening _ h).trans (Keeps.pause _ _ _ _)
  · exact ((Keeps.of_opening _ h).trans (Keeps.updateRecord _ _ _)).trans (Keeps.playSample _ _ _ _ _ _)

theorem Keeps.openCal {s : State} (r : Record) (h : s.plans.records ≠ []) : Keeps s (s.openCal r) := by
  let x : Search := { tag := r.tag, head := r.head, step := 1, threshold := 0, offset := 0, monlo := 0 }
  let t : State := { s with
    seq := { s.seq with current := some r.tag, profile := none, captured := none, overrun := none } }
  have hcurrent : Keeps s t := Keeps.of_opening _ h
  have hsearch : Keeps t { t with search := some x } :=
    Keeps.of_search fun ⟨hlen, hall, _⟩ => ⟨hlen, hall, fun y hy => by
      cases hy
      exact searchSound_first r.tag r.head⟩
  exact (((hcurrent.trans hsearch).trans (Keeps.updateRecord _ _ _)).trans
    (Keeps.setReferences _ _ _)).trans (Keeps.setLaser _ _)

theorem execWriteWindowOpens_keeps (tag : Tag) (rail : Bool) (s : State) :
    AnswersKeeping s (execWriteWindowOpens tag rail s) := by
  refine .next ?_
  split
  · exact Keeps.refl s
  · rename_i hfind
    have hne := records_ne_nil_of_find hfind
    split
    · exact Keeps.refl s
    · split
      · refine Keeps.atTime _ fun c => ?_
        split
        · exact (Keeps.of_pins _ _).trans (Keeps.openRail _ hne)
        · exact (Keeps.of_pins _ _).trans (Keeps.openWrite _ _ hne)
      · exact Keeps.refl s

theorem execCalWindowOpens_keeps (tag : Tag) (rail : Bool) (s : State) :
    AnswersKeeping s (execCalWindowOpens tag rail s) := by
  refine .next ?_
  split
  · exact Keeps.refl s
  · rename_i hfind
    have hne := records_ne_nil_of_find hfind
    split
    · refine Keeps.atTime _ fun c => ?_
      split
      · exact (Keeps.of_pins _ _).trans (Keeps.openRail _ hne)
      · exact (Keeps.of_pins _ _).trans (Keeps.openCal _ hne)
    · exact Keeps.refl s

theorem execWindowEndReached_keeps (s : State) : AnswersKeeping s (execWindowEndReached s) := by
  refine .next ?_
  split
  · exact Keeps.refl s
  · rename_i hr
    have hne := records_ne_nil_of_current hr
    split
    · exact Keeps.atTime _ fun c => Keeps.endTail _ hne
    · exact Keeps.refl s

theorem execWriteStartDeadline_keeps (s : State) : AnswersKeeping s (execWriteStartDeadline s) := by
  refine .next ?_
  split
  · rename_i hr _
    have hne := records_ne_nil_of_current hr
    split
    · exact Keeps.atTime _ fun c => Keeps.endPlan _ _ _ _ hne
    · exact Keeps.refl s
  · exact Keeps.refl s

theorem execWriteDeadline_keeps (s : State) : AnswersKeeping s (execWriteDeadline s) := by
  refine .next ?_
  split
  · rename_i hr _
    have hne := records_ne_nil_of_current hr
    split
    · exact Keeps.atTime _ fun c => (Keeps.assertWfault _).trans (Keeps.enterTail _ _ _ (by simpa using hne))
    · exact Keeps.refl s
  · exact Keeps.refl s

theorem execTransmitDeadline_keeps (tag : Tag) (s : State) : AnswersKeeping s (execTransmitDeadline tag s) := by
  refine .next ?_
  split
  · exact Keeps.refl s
  · rename_i hfind
    have hne := records_ne_nil_of_find hfind
    split
    · exact Keeps.atTime _ fun c => Keeps.finish _ _ hne
    · exact Keeps.refl s

theorem Keeps.profileStep {s : State} (r : Record) (p : Profile) (pos : Position) (lo hi : Bool)
    (h : s.plans.records ≠ []) : Keeps s (s.profileStep r p pos lo hi) := by
  unfold State.profileStep
  split
  · exact Keeps.advancePreheat _ _ _ h
  · have hread := (Keeps.monitorReading s lo hi).trans
      (Keeps.of_seq (q := { (s.monitorReading lo hi).seq with firstStep := false }) (.inl rfl))
    exact hread.trans (Keeps.advanceWrite _ _ _ (by simpa using h))
  · exact Keeps.advanceTail _ _ _ h
  · exact Keeps.refl s

theorem execProfileStepEnd_keeps (lo hi : Bool) (s : State) : AnswersKeeping s (execProfileStepEnd lo hi s) := by
  have hlines : Keeps s (s.setMonitorLines lo hi) := Keeps.of_pins _ _
  refine .next ?_
  dsimp only
  split
  · split
    · rename_i hr _ _
      exact hlines.trans (Keeps.profileStep _ _ _ _ _ (records_ne_nil_of_current hr))
    · exact hlines
  · exact hlines

theorem execCalibrationStepEnd_keeps (lo hi : Bool) (s : State) :
    AnswersKeeping s (execCalibrationStepEnd lo hi s) := by
  have hlines : Keeps s (s.setMonitorLines lo hi) := Keeps.of_pins _ _
  refine .next ?_
  dsimp only
  split
  · rename_i hr hx
    have hne := records_ne_nil_of_current hr
    split
    · exact hlines.trans (Keeps.atTime _ fun c => Keeps.calibrationStep _ _ _ _ hne hx)
    · exact hlines
  · exact hlines

/-! ### The Share Link (chapters 8 and 9) -/

theorem execFrameStart_keeps (idle : Nat) (s : State) : AnswersKeeping s (execFrameStart idle s) := by
  refine .next ?_
  split
  · split
    · rename_i e he
      exact Keeps.startFrame (List.mem_of_find?_eq_some he) (List.find?_some he)
    · exact Keeps.refl s
  · exact Keeps.refl s

theorem execTransmissionCompletes_keeps (s : State) : AnswersKeeping s (execTransmissionCompletes s) := by
  refine .next ?_
  split
  · rename_i ho
    split
    · exact Keeps.complete ho
    · exact Keeps.refl s
  · exact Keeps.refl s

theorem execCollision_keeps (s : State) : AnswersKeeping s (execCollision s) := by
  refine .next ?_
  split
  · rename_i ho
    split
    · exact Keeps.collide ho
    · exact Keeps.refl s
  · exact Keeps.refl s

theorem execLinkFrameError_keeps (low : Bool) (s : State) : AnswersKeeping s (execLinkFrameError low s) := by
  refine .next ?_
  split
  · rename_i h
    exact Keeps.frameError (station_of_readsLine ((receives_iff s).1 h).2.1).1 low
  · split
    · exact Keeps.foreignLevel s
    · exact Keeps.refl s

theorem execIdle_keeps (s : State) : AnswersKeeping s (execIdleForMoreThan20BitTimes s) := by
  refine .next ?_
  split
  · rename_i h
    simp only [Bool.and_eq_true, Bool.or_eq_true, decide_eq_true_eq] at h
    obtain ⟨⟨_, hreads⟩, hrx⟩ := h
    refine Keeps.of_link fun hl hc => ⟨?_, fun h => absurd h (station_of_readsLine hreads).1⟩
    rw [linkSound_iff] at hl ⊢
    obtain ⟨h1, h2, h3, h4, h5⟩ := hl
    refine ⟨h1, h2, h3, h4, fun hne => ?_⟩
    have := h5 hne
    rcases hrx with hrx | hrx <;> simp [hrx] at this
  · exact Keeps.refl s

/-- A frame of another unit, where what its kind does keeps the laws outside SETUP. -/
theorem takeFrame_keeps {s : State} {act : State → State} (n : Station) (stamp : Option Time)
    (h : ∀ u : State, u.station ≠ .setup → n ≠ u.number → Keeps u (act u)) :
    AnswersKeeping s (.next (s.takeFrame n stamp act)) :=
  .next (Keeps.takeFrame n stamp fun u hu hn => h u (station_of_readsLine hu).1 hn)

/-! ### The step -/

/-- Every command answers a next state that keeps the laws. -/
theorem exec_keeps (c : Instr) (s : State) : AnswersKeeping s (exec c s) := by
  cases c with
  | configure p => exact execConfigure_keeps p s
  | start p => exact execStart_keeps p s
  | load p => exact execLoad_keeps p s
  | data p more => exact execData_keeps p more s
  | swap p => exact execSwap_keeps p s
  | setHead p => exact execSetHead_keeps p s
  | readHead p => exact execReadHead_keeps p s
  | calibrate p => exact execCalibrate_keeps p s
  | post p => exact execPost_keeps p s
  | cancel p => exact execCancel_keeps p s
  | query p => exact execQuery_keeps p s
  | collect p => exact execCollect_keeps p s
  | status p => exact execStatus_keeps p s
  | identify p => exact execIdentify_keeps p s
  | withdraw p => exact execWithdraw_keeps p s
  | restart p => exact execRestart_keeps p s
  | planPortFrameError => exact execPlanPortFrameError_keeps s
  | unknownKind k p => exact execUnknownKind_keeps k p s
  | powerOn straps => exact execPowerOn_keeps straps s
  | indexPulse i => exact .next (Keeps.takePulse s i)
  | clockHold => exact execClockHold_keeps s
  | spindleLoss => exact execSpindleLoss_keeps s
  | peerLost n i => exact execPeerLost_keeps n i s
  | listenEnd i => exact execListenEnd_keeps i s
  | resyncTimeout i => exact execResyncTimeout_keeps i s
  | quietTimeout i => exact execQuietTimeout_keeps i s
  | wgateRise => exact execWgateRise_keeps s
  | wgateFall => exact execWgateFall_keeps s
  | sgateRise => exact execSgateRise_keeps s
  | sgateFall => exact execSgateFall_keeps s
  | railAlertRise => exact execRailAlertRise_keeps s
  | writeWindowOpens t rail => exact execWriteWindowOpens_keeps t rail s
  | calWindowOpens t rail => exact execCalWindowOpens_keeps t rail s
  | profileStepEnd lo hi => exact execProfileStepEnd_keeps lo hi s
  | windowEndReached => exact execWindowEndReached_keeps s
  | writeStartDeadline => exact execWriteStartDeadline_keeps s
  | writeDeadline => exact execWriteDeadline_keeps s
  | transmitDeadline t => exact execTransmitDeadline_keeps t s
  | calibrationStepEnd lo hi => exact execCalibrationStepEnd_keeps lo hi s
  | swapResolution => exact .next (Keeps.resolveDueSwap s)
  | frameStart idle => exact execFrameStart_keeps idle s
  | transmissionCompletes => exact execTransmissionCompletes_keeps s
  | collision => exact execCollision_keeps s
  | linkFrameError low => exact execLinkFrameError_keeps low s
  | join n t u b => exact takeFrame_keeps n _ fun _ hset hn => Keeps.peerJoin hset hn _ _ _
  | beacon n t d k y b => exact takeFrame_keeps n _ fun _ hset hn => Keeps.peerBeacon hset hn _ _ _ _ _
  | claim n t c k ws we l b => exact takeFrame_keeps n _ fun _ hset hn => Keeps.peerClaim hset hn _ _ _ _ _ _ _
  | release n t c x b => exact takeFrame_keeps n _ fun _ hset hn => Keeps.peerRelease hset hn _ _ _ _
  | syncRequest n => exact takeFrame_keeps n _ fun _ hset hn => Keeps.peerSyncRequest hset hn
  | announce n f es => exact takeFrame_keeps n _ fun _ hset hn => Keeps.peerAnnounce hset hn _ _
  | syncDone n t d b => exact takeFrame_keeps n _ fun _ hset hn => Keeps.peerSyncDone hset hn _ _ _
  | rstnFalls => exact execRstnFalls_keeps s
  | idleForMoreThan20BitTimes => exact execIdle_keeps s

theorem Keeps.of_exec {c : Instr} {s t : State} (h : exec c s = .next t) : Keeps s t := by
  obtain ⟨u, hu, hk⟩ := exec_keeps c s
  rw [h] at hu
  cases hu
  exact hk

/-- Settles O3: every command answers a state that keeps the laws, the queue of commands among them. -/
theorem everyCommandAnswersAndKeepsQueue : Obligations.EveryCommandAnswersAndKeepsQueue := fun c s => by
  obtain ⟨t, ht, hk⟩ := exec_keeps c s
  exact ⟨t, ht, hk.pending⟩

theorem Keeps.tick (s : State) : Keeps s s.tick := by
  unfold State.tick
  split
  · exact Keeps.of_advance s _
  · exact Keeps.refl s

/-- A law that does not read the queue of commands, that every command keeps and that the advance of the clock
keeps, is kept by every step. -/
theorem law_of_step {P : State → Prop} (hpending : ∀ s q, P s → P { s with pending := q })
    (hexec : ∀ c s t, P s → exec c s = .next t → P t) (htick : ∀ s, P s → P s.tick) {s t : State} (hs : P s)
    (h : step s = .next t) : P t := by
  unfold step at h
  split at h
  · exact hexec _ _ _ (hpending s _ hs) h
  · unfold idleStep at h
    split at h
    · exact hexec _ _ _ hs h
    · cases h
      exact htick s hs

/-- Settles O54. -/
theorem clockSoundInvariant : Obligations.ClockSoundInvariant := fun _ _ =>
  law_of_step (fun _ _ h => h) (fun _ _ _ h hx => (Keeps.of_exec hx).clock h) (fun s h => (Keeps.tick s).clock h)

/-- Settles O55: with the Peer Block's law, since only a requester outside SETUP and LISTEN inserts what is
announced. -/
theorem tableSoundInvariant : Obligations.TableSoundInvariant := fun _ _ ht hp h =>
  (law_of_step (P := fun s => TableSound s ∧ PeersSound s) (fun _ _ h => h)
    (fun _ _ _ h hx => ⟨(Keeps.of_exec hx).table h.1 h.2, (Keeps.of_exec hx).peers h.2⟩)
    (fun s h => ⟨(Keeps.tick s).table h.1 h.2, (Keeps.tick s).peers h.2⟩) ⟨ht, hp⟩ h).1

/-- Settles O57: the two laws are each inductive by itself. -/
theorem storeAndHeadsInvariant : Obligations.StoreAndHeadsInvariant :=
  ⟨fun _ _ => law_of_step (fun _ _ h => h) (fun _ _ _ h hx => (Keeps.of_exec hx).store h)
      (fun s h => (Keeps.tick s).store h),
    fun _ _ => law_of_step (fun _ _ h => h) (fun _ _ _ h hx => (Keeps.of_exec hx).heads h)
      (fun s h => (Keeps.tick s).heads h)⟩

/-- Settles O58. -/
theorem peersSoundInvariant : Obligations.PeersSoundInvariant := fun _ _ =>
  law_of_step (fun _ _ h => h) (fun _ _ _ h hx => (Keeps.of_exec hx).peers h) (fun s h => (Keeps.tick s).peers h)

/-! ### The line, bit time by bit time -/

theorem queueCommands_link (s : State) (cs : List Instr) : (s.queueCommands cs).link = s.link := rfl

/-- The frame being assembled stays assembled at a receiver that receives. -/
def AssemblyKept (l : Link) : Prop := l.assembly ≠ [] → l.receiver = .receiving

theorem lineIdle_assembly {s : State} (h : AssemblyKept s.link) : AssemblyKept s.lineIdle.link := by
  unfold State.lineIdle
  dsimp only
  split <;> (try rw [queueCommands_link]) <;> split
  · exact h
  · split
    · exact fun h => absurd rfl h
    · exact h
    · exact h
    · exact h
  · exact h
  · split
    · exact fun h => absurd rfl h
    · exact h
    · exact h
    · exact h

theorem receiveByte_assembly {s : State} (h : s.link.receiver = .receiving) (b : RxByte) (pulse : Bool) :
    AssemblyKept (s.receiveByte b pulse).link := by
  unfold State.receiveByte
  dsimp only
  split
  · exact fun _ => h
  · exact fun h => absurd rfl h
  · exact fun h => absurd rfl h

theorem receiveBit_assembly {s : State} (h : AssemblyKept s.link) (level pulse : Bool) :
    AssemblyKept (s.receiveBit level pulse).link := by
  have hsample := sample_frame { s.link with postSend := s.link.postSend && level } level
  unfold State.receiveBit
  generalize ({ s.link with postSend := s.link.postSend && level } : Link).sample level = sampled at hsample ⊢
  obtain ⟨l, byte⟩ := sampled
  simp only at hsample ⊢
  have hrx : l.receiver = s.link.receiver := by rw [hsample]
  have hl : AssemblyKept l := by
    rw [hsample]
    exact h
  split
  · rename_i hreceiving
    exact receiveByte_assembly (s := { s with link := l }) (hrx.trans hreceiving) _ _
  · split
    · exact lineIdle_assembly (s := { s with link := l }) hl
    · split
      · exact fun _ => rfl
      · exact hl
  · split
    · exact lineIdle_assembly (s := { s with link := l }) hl
    · exact hl

theorem lineBit_assembly {s : State} (h : AssemblyKept s.link) (level pulse : Bool) :
    AssemblyKept (s.lineBit level pulse).link := by
  unfold State.lineBit
  split
  · split
    · unfold State.readBack
      split
      · dsimp only
        split
        · exact h
        · exact h
      · exact fun _ => rfl
    · exact receiveBit_assembly h level pulse
  · exact h

/-- SETUP does not read the line. -/
theorem lineBit_setup {s : State} (h : s.station = .setup) (level pulse : Bool) : s.lineBit level pulse = s := by
  simp [State.lineBit, State.readsLine, State.takesFrames, h]

/-- Settles O59: the commands keep the law; a bit time of the line leaves the transmit queue, the collision count and
the frame in progress, and assembles a frame only at a receiver that receives. -/
theorem linkAndSetupInvariant : Obligations.LinkAndSetupInvariant := by
  refine ⟨fun _ _ hl hc => law_of_step (P := fun s => LinkSound s ∧ SetupClean s) (fun _ _ h => h)
    (fun _ _ _ h hx => (Keeps.of_exec hx).link h.1 h.2) (fun s h => (Keeps.tick s).link h.1 h.2) ⟨hl, hc⟩,
    fun s level pulse hl hc => ⟨?_, fun hs => ?_⟩⟩
  · rw [linkSound_iff] at hl ⊢
    obtain ⟨h1, h2, h3, h4, h5⟩ := hl
    have hasm := lineBit_assembly (s := s) h5 level pulse
    refine ⟨?_, ?_, ?_, ?_, hasm⟩ <;> rw [lineBit_frame]
    · exact h1
    · exact h2
    · exact h3
    · exact h4
  · have hset : s.station = .setup := by rwa [lineBit_frame] at hs
    rw [lineBit_setup hset]
    exact hc hset

end Sys2Proof.Machine
end

section
/-! PROOFS. The laws of the Plan Queue and the Burst Sequencer together: what they read of a state, and what the
operations on records, on the laser and on WFAULT do to them. -/

namespace Sys2Proof.Machine

/-! ### The two laws -/

/-- The executing record and the current plan are one. -/
def CurrentExecutes (records : List Record) (current : Option Tag) : Prop :=
  (∀ r ∈ records, r.executing = true ↔ current = some r.tag)
  ∧ ∀ u, current = some u → ∃ r ∈ records, r.tag = u

/-- The laser is on only for a current plan, and WFAULT stands only while its gate does. -/
def OutputsSound (s : State) : Prop :=
  (s.seq.laser ≠ .off → s.seq.current.isSome = true ∧ s.station ≠ .halted ∧ s.pins.rstn = true)
  ∧ (s.seq.wfault = true → s.pins.wgate = true ∧ s.pins.rstn = true)

/-- The laws of the Plan Queue and the Burst Sequencer, the second in the form that the operations keep. -/
def PlanSound (s : State) : Prop :=
  QueueSound s ∧ CurrentExecutes s.plans.records s.seq.current ∧ OutputsSound s

theorem eq_of_tag {s : State} (h : QueueSound s) {a b : Record} (ha : a ∈ s.plans.records)
    (hb : b ∈ s.plans.records) (ht : a.tag = b.tag) : a = b := by
  have hfind := find_of_mem h ha
  rw [ht, find_of_mem h hb] at hfind
  exact (Option.some.inj hfind).symm

theorem planSound_iff (s : State) : PlanSound s ↔ QueueSound s ∧ SequencerSound s := by
  refine and_congr_right fun hq => ⟨fun ⟨⟨hexec, hheld⟩, hout⟩ => ?_, fun ⟨hcur, hex, hlaser, hwfault⟩ => ?_⟩
  · refine ⟨fun r hr he => (hexec r hr).1 he, fun u hu => ?_, hout.1, hout.2⟩
    obtain ⟨r, hr, rfl⟩ := hheld u hu
    exact ⟨r, hr, rfl, (hexec r hr).2 hu⟩
  · refine ⟨⟨fun r hr => ⟨hcur r hr, fun hu => ?_⟩, fun u hu => ?_⟩, hlaser, hwfault⟩
    · obtain ⟨x, hx, ht, he⟩ := hex _ hu
      rwa [← eq_of_tag hq hx hr ht]
    · obtain ⟨x, hx, ht, _⟩ := hex _ hu
      exact ⟨x, hx, ht⟩

/-! ### Operations that leave what the laws read -/

/-- Nothing that the two laws read has changed, but that a halted station may have left HALTED. -/
def LeavesPlans (s t : State) : Prop :=
  t.plans.records = s.plans.records ∧ t.seq.current = s.seq.current ∧ t.seq.laser = s.seq.laser
  ∧ t.seq.wfault = s.seq.wfault ∧ t.pins.rstn = s.pins.rstn ∧ t.pins.wgate = s.pins.wgate
  ∧ (t.station = .halted → s.station = .halted)

theorem PlanSound.of_leaves {s t : State} (h : PlanSound s) (hl : LeavesPlans s t) : PlanSound t := by
  obtain ⟨hq, hc, hlaser, hwfault⟩ := h
  obtain ⟨h1, h2, h3, h4, h5, h6, h7⟩ := hl
  refine ⟨?_, by rwa [h1, h2], fun h => ?_, fun h => ?_⟩
  · unfold QueueSound
    rwa [h1]
  · obtain ⟨hc, hst, hr⟩ := hlaser (by rwa [h3] at h)
    exact ⟨by rwa [h2], fun h => hst (h7 h), by rwa [h5]⟩
  · rw [h5, h6]
    exact hwfault (by rwa [h4] at h)

theorem PlanSound.request {s : State} {handle : State → State} (h : PlanSound s) (kind : Byte) (p : List Byte)
    (n : Nat) (hh : s.pins.rstn = true → PlanSound (handle s)) : PlanSound (s.request kind p n handle) := by
  rcases request_cases s kind p n handle with h' | h' | ⟨hr, h'⟩ <;> rw [h']
  · exact h
  · exact h
  · exact hh hr

theorem PlanSound.atTime {s : State} {act : State → State} (h : PlanSound s) (t : Time)
    (hact : ∀ c : Clock, PlanSound (act { s with clock := c })) : PlanSound (s.atTime t act) := by
  rcases atTime_cases s t act with h' | h' | ⟨a, h'⟩ <;> rw [h']
  · exact h
  · exact hact s.clock
  · exact hact _

/-! ### The records, one by one -/

/-- A record has kept its place: its tag, its window, its claim number and its kind. -/
structure SamePlace (a b : Record) : Prop where
  tag : b.tag = a.tag
  windowStart : b.windowStart = a.windowStart
  windowEnd : b.windowEnd = a.windowEnd
  claim : b.claim = a.claim
  kind : b.kind = a.kind

theorem SamePlace.refl (a : Record) : SamePlace a a := ⟨rfl, rfl, rfl, rfl, rfl⟩

/-- A record goes on as another, which is not live and holds no claim where it was not and held none. -/
structure Continues (a b : Record) : Prop where
  place : SamePlace a b
  live : b.live = true → a.live = true
  held : ClaimHeld b → ClaimHeld a

theorem Continues.refl (a : Record) : Continues a a := ⟨SamePlace.refl a, id, id⟩

theorem Continues.of_live {a b : Record} (h : SamePlace a b) (hl : a.live = true) : Continues a b :=
  ⟨h, fun _ => hl, fun _ => .inl hl⟩

theorem RecordsAgree.continues {a b a' b' : Record} (h : RecordsAgree a b) (ha : Continues a a')
    (hb : Continues b b') : RecordsAgree a' b' := by
  obtain ⟨htag, hwindow, hclaim, hcal⟩ := h
  refine ⟨?_, fun hla hlb => ?_, fun hca hcb => ?_, fun ⟨hla, hlb, hka, hkb⟩ => hcal ?_⟩
  · rwa [ha.place.tag, hb.place.tag]
  · rw [ha.place.windowStart, ha.place.windowEnd, hb.place.windowStart, hb.place.windowEnd]
    exact hwindow (ha.live hla) (hb.live hlb)
  · rw [ha.place.claim, hb.place.claim]
    exact hclaim (ha.held hca) (hb.held hcb)
  · exact ⟨ha.live hla, hb.live hlb, ha.place.kind ▸ hka, hb.place.kind ▸ hkb⟩

/-- The queue goes on record by record. -/
theorem QueueSound.map {s t : State} {f : Record → Record} (h : QueueSound s)
    (hmap : t.plans.records = s.plans.records.map f) (hf : ∀ r ∈ s.plans.records, Continues r (f r)) :
    QueueSound t := by
  obtain ⟨hlen, hpair⟩ := h
  rw [QueueSound, hmap, List.length_map, List.pairwise_map]
  exact ⟨hlen, hpair.imp_of_mem fun ha hb hab => hab.continues (hf _ ha) (hf _ hb)⟩

theorem CurrentExecutes.map {records : List Record} {f : Record → Record} {current : Option Tag}
    (htag : ∀ r ∈ records, (f r).tag = r.tag)
    (hexec : ∀ r ∈ records, (f r).executing = true ↔ current = some r.tag)
    (hheld : ∀ u, current = some u → ∃ r ∈ records, r.tag = u) : CurrentExecutes (records.map f) current := by
  refine ⟨fun r hr => ?_, fun u hu => ?_⟩
  · obtain ⟨x, hx, rfl⟩ := List.mem_map.1 hr
    rw [htag x hx]
    exact hexec x hx
  · obtain ⟨x, hx, rfl⟩ := hheld u hu
    exact ⟨f x, List.mem_map_of_mem hx, htag x hx⟩

/-- With no plan current, no record executes. -/
theorem CurrentExecutes.map_none {records : List Record} {f : Record → Record}
    (htag : ∀ r ∈ records, (f r).tag = r.tag) (hexec : ∀ r ∈ records, (f r).executing = false) :
    CurrentExecutes (records.map f) none :=
  CurrentExecutes.map htag (fun r hr => by simp [hexec r hr]) (by simp)

/-- The change of the record with one tag. -/
def atTag (t : Tag) (g : Record → Record) (x : Record) : Record := if x.tag = t then g x else x

theorem update_records (q : PlanQueue) (t : Tag) (g : Record → Record) :
    (q.update t g).records = q.records.map (atTag t g) := rfl

theorem finish_records_map (s : State) (r : Record) (e : Ending) :
    (s.finish r e).plans.records = s.plans.records.map (atTag r.tag (fun x => x.finish e s.now)) := rfl

theorem atTag_tag {t : Tag} {g : Record → Record} (hg : ∀ x, SamePlace x (g x)) (x : Record) :
    (atTag t g x).tag = x.tag := by
  unfold atTag
  split
  · exact (hg x).tag
  · rfl

theorem atTag_continues {records : List Record} {t : Tag} {g : Record → Record} (hg : ∀ x, SamePlace x (g x))
    (hlive : ∀ x ∈ records, x.tag = t → x.live = true) : ∀ x ∈ records, Continues x (atTag t g x) := by
  intro x hx
  unfold atTag
  split
  · rename_i ht
    exact Continues.of_live (hg x) (hlive x hx ht)
  · exact Continues.refl x

theorem finish_samePlace (x : Record) (e : Ending) (now : Time) : SamePlace x (x.finish e now) :=
  ⟨rfl, rfl, rfl, rfl, rfl⟩

theorem live_of_executing {r : Record} (h : r.executing = true) : r.live = true := by
  unfold Record.executing at h
  unfold Record.live
  cases hs : r.state <;> simp_all

/-! ### Records that wait: QUEUED, CLAIMING and GRANTED ones -/

/-- The record with this tag is live and does not execute. -/
def Waiting (s : State) (t : Tag) : Prop :=
  ∀ x ∈ s.plans.records, x.tag = t → x.live = true ∧ x.executing = false

theorem waiting_of_mem {s : State} (h : PlanSound s) {r : Record} (hr : r ∈ s.plans.records)
    (hs : r.state = .queued ∨ r.state = .claiming ∨ r.state = .granted) : Waiting s r.tag := by
  intro x hx ht
  rw [eq_of_tag h.1 hx hr ht]
  rcases hs with hs | hs | hs <;> simp [Record.live, Record.executing, hs]

/-- A waiting record changes, and goes on waiting or finishes. -/
theorem PlanSound.updateWaiting {s : State} {t : Tag} {g : Record → Record} (h : PlanSound s)
    (hw : Waiting s t) (hg : ∀ x, SamePlace x (g x))
    (he : ∀ x, x.executing = false → (g x).executing = false) : PlanSound (s.updateRecord t g) := by
  obtain ⟨hq, ⟨hexec, hheld⟩, hout⟩ := h
  refine ⟨hq.map (update_records _ _ _) (atTag_continues hg fun x hx ht => (hw x hx ht).1),
    CurrentExecutes.map (fun x _ => atTag_tag hg x) (fun x hx => ?_) hheld, hout⟩
  refine Iff.trans ?_ (hexec x hx)
  split
  · rename_i ht
    rw [he x (hw x hx ht).2, (hw x hx ht).2]
  · rfl

theorem PlanSound.finishWaiting {s : State} {r : Record} (h : PlanSound s) (hw : Waiting s r.tag) (e : Ending) :
    PlanSound (s.finish r e) := by
  have hdone : PlanSound (s.updateRecord r.tag (fun x => x.finish e s.now)) :=
    h.updateWaiting hw (fun x => finish_samePlace x e s.now) (fun _ _ => rfl)
  exact hdone.of_leaves ⟨rfl, rfl, rfl, rfl, rfl, rfl, id⟩

theorem PlanSound.finishAll {s : State} {rs : List Record} (h : PlanSound s) (hn : (rs.map Record.tag).Nodup)
    (hw : ∀ r ∈ rs, Waiting s r.tag) (e : Record → Ending) : PlanSound (s.finishAll rs e) := by
  induction rs generalizing s with
  | nil => exact h
  | cons r rs ih =>
    simp only [List.map_cons, List.nodup_cons] at hn
    refine ih (h.finishWaiting (hw r List.mem_cons_self) (e r)) hn.2 fun y hy x hx ht => ?_
    have hne : y.tag ≠ r.tag := fun h => hn.1 (h ▸ List.mem_map_of_mem hy)
    rw [finish_records_map] at hx
    obtain ⟨x', hx', rfl⟩ := List.mem_map.1 hx
    have htag : (atTag r.tag (fun x => x.finish (e r) s.now) x').tag = x'.tag :=
      atTag_tag (fun x => finish_samePlace x (e r) s.now) x'
    have hsame : atTag r.tag (fun x => x.finish (e r) s.now) x' = x' :=
      if_neg (fun h => hne (by rw [← ht, htag, h]))
    rw [hsame] at ht ⊢
    exact hw y (List.mem_cons_of_mem _ hy) x' hx' ht

theorem QueueSound.nodup_filter {s : State} (h : QueueSound s) (f : Record → Bool) :
    ((s.plans.records.filter f).map Record.tag).Nodup := by
  rw [List.Nodup, List.pairwise_map]
  exact (h.2.sublist List.filter_sublist).imp fun hab => hab.1

/-- Records that wait finish as a group. -/
theorem PlanSound.finishFilter {s : State} (h : PlanSound s) {f : Record → Bool}
    (hf : ∀ r, f r = true → r.state = .queued ∨ r.state = .claiming ∨ r.state = .granted) (e : Record → Ending) :
    PlanSound (s.finishAll (s.plans.records.filter f) e) :=
  h.finishAll (h.1.nodup_filter f) (fun r hr => by
    obtain ⟨hmem, hhit⟩ := List.mem_filter.1 hr
    exact waiting_of_mem h hmem (hf r hhit)) e

/-! ### The head turning SUSPECT, and what a report brings (R86, R95, R96) -/

theorem PlanSound.markSuspect {s : State} (h : PlanSound s) (head : Nat) : PlanSound (s.markSuspect head) := by
  have hmarked : PlanSound (s.swapBeforeEndings.setHeadRecord head
      { s.swapBeforeEndings.headRecord head with state := .suspect }) := h.of_leaves (by simp [LeavesPlans])
  refine hmarked.finishFilter (fun r hr => ?_) _
  simp only [Bool.and_eq_true, Bool.or_eq_true, decide_eq_true_eq] at hr
  rcases hr.2 with hs | hs
  · exact .inl hs
  · exact .inr (.inr hs)

theorem PlanSound.trimStep {s : State} (h : PlanSound s) (head : Nat) (m : Report) :
    PlanSound (s.trimStep head m) := by
  unfold State.trimStep
  dsimp only
  split
  · exact h
  · split
    · exact h.markSuspect head
    · exact h

theorem PlanSound.afterBurst {s : State} (h : PlanSound s) (head : Nat) (report : Option Report) :
    PlanSound (s.afterBurst head report) := by
  unfold State.afterBurst
  split
  · exact h
  · split
    · exact h.markSuspect head
    · exact h.trimStep head _
    · exact h
    · exact h

/-! ### The laser and WFAULT (R64, R83, R85) -/

theorem PlanSound.setLaserOff {s : State} (h : PlanSound s) : PlanSound (s.setLaser .off) := by
  obtain ⟨hq, hc, _, hwfault⟩ := h
  refine ⟨?_, ?_, ?_, ?_⟩
  · simpa [QueueSound] using hq
  · simpa [setLaser_off_seq] using hc
  · simp [setLaser_off_seq]
  · simpa [setLaser_off_seq] using hwfault

theorem PlanSound.assertWfault {s : State} (h : PlanSound s) (hr : s.pins.rstn = true) :
    PlanSound s.assertWfault := by
  obtain ⟨hq, hc, hlaser, hwfault⟩ := h
  refine ⟨hq, hc, hlaser, fun hw => ⟨?_, hr⟩⟩
  simp only [State.assertWfault, Bool.or_eq_true] at hw
  exact hw.elim (fun h => (hwfault h).1) id

theorem PlanSound.releaseWfault {s : State} (h : PlanSound s) : PlanSound s.releaseWfault := by
  obtain ⟨hq, hc, hlaser, _⟩ := h
  exact ⟨hq, hc, hlaser, fun hw => by cases hw⟩

theorem PlanSound.halt {s : State} (h : PlanSound s) (hr : s.pins.rstn = true) (c : FaultCause) (stamp : Time) :
    PlanSound (s.halt c stamp) := by
  have hoff := h.setLaserOff.assertWfault (by simpa using hr)
  obtain ⟨hq, hc, _, hwfault⟩ := hoff
  refine ⟨hq, hc, fun hon => ?_, hwfault⟩
  exact absurd (by simp [State.halt, State.assertWfault, setLaser_off_seq]) hon

/-! ### The current plan while it executes -/

/-- The plan with this tag is current, and the station takes events. -/
def Playing (s : State) (t : Tag) : Prop :=
  PlanSound s ∧ s.seq.current = some t ∧ s.pins.rstn = true ∧ s.station ≠ .halted

theorem Playing.of_leaves {s u : State} {t : Tag} (h : Playing s t) (hl : LeavesPlans s u) : Playing u t := by
  obtain ⟨hp, hc, hr, hst⟩ := h
  refine ⟨hp.of_leaves hl, ?_, ?_, ?_⟩ <;> obtain ⟨_, h2, _, _, h5, _, h7⟩ := hl
  · rwa [h2]
  · rwa [h5]
  · exact fun h => hst (h7 h)

/-- The current plan's record executes. -/
theorem Playing.executes {s : State} {t : Tag} (h : Playing s t) {x : Record} (hx : x ∈ s.plans.records)
    (ht : x.tag = t) : x.executing = true := by
  obtain ⟨⟨_, ⟨hexec, _⟩, _⟩, hc, _⟩ := h
  exact (hexec x hx).2 (by rw [hc, ht])

theorem Playing.updateRecord {s : State} {t : Tag} {g : Record → Record} (h : Playing s t)
    (hg : ∀ x, SamePlace x (g x)) (he : ∀ x, x.executing = true → (g x).executing = true) :
    Playing (s.updateRecord t g) t := by
  have hrun := fun x hx ht => h.executes (x := x) hx ht
  obtain ⟨⟨hq, ⟨hexec, hheld⟩, hout⟩, hrest⟩ := h
  refine ⟨⟨hq.map (update_records _ _ _) (atTag_continues hg fun x hx ht => live_of_executing (hrun x hx ht)),
    CurrentExecutes.map (fun x _ => atTag_tag hg x) (fun x hx => ?_) hheld, hout⟩, hrest⟩
  refine Iff.trans ?_ (hexec x hx)
  split
  · rename_i ht
    rw [he x (hrun x hx ht), hrun x hx ht]
  · rfl

/-- The current plan's record goes to another executing state. -/
theorem Playing.enters {s : State} {t : Tag} (h : Playing s t) {st : RecordState}
    (hst : ∀ x : Record, Record.executing { x with state := st } = true) :
    Playing (s.updateRecord t (fun x => { x with state := st })) t :=
  h.updateRecord (fun _ => ⟨rfl, rfl, rfl, rfl, rfl⟩) (fun x _ => hst x)

theorem Playing.setLaser {s : State} {t : Tag} (h : Playing s t) (l : Laser) : Playing (s.setLaser l) t := by
  obtain ⟨⟨hq, hc, hlaser, hwfault⟩, hcur, hr, hst⟩ := h
  have hseq : (s.setLaser l).seq = { s.seq with laser := l } := by
    cases l with
    | off => exact setLaser_off_seq s
    | on head code => rw [setLaser_on]
  refine ⟨⟨by simpa [QueueSound] using hq, by simpa [hseq] using hc, fun _ => ?_, by simpa [hseq] using hwfault⟩,
    by simpa [hseq] using hcur, by simpa using hr, by simpa using hst⟩
  simp [hseq, hcur, hr, hst]

theorem Playing.assertWfault {s : State} {t : Tag} (h : Playing s t) : Playing s.assertWfault t := by
  obtain ⟨hp, hc, hr, hst⟩ := h
  exact ⟨hp.assertWfault hr, hc, hr, hst⟩

theorem Playing.emit {s : State} {t : Tag} (h : Playing s t) (r : Record) (value : Nat) :
    Playing (s.emit r value) t := by
  unfold State.emit
  split
  · exact h.setLaser _
  · exact h

theorem Playing.playSample {s : State} {t : Tag} (h : Playing s t) (r : Record) (p : Profile) (ph : Phase)
    (g k : Nat) : Playing (s.playSample r p ph g k) t := by
  have hpos : Playing { s with seq := { s.seq with
      position := some { phase := ph, segment := g, sample := some k } } } t := h
  have hemit := hpos.emit r (sampleValue s.store.activeBank p ph g k)
  unfold State.playSample
  cases ph with
  | write => exact hemit.of_leaves (by simp [LeavesPlans])
  | preheat => exact hemit
  | tail => exact hemit

theorem Playing.monitorStops {s : State} {t : Tag} (h : Playing s t) : Playing s.monitorStops t :=
  h.of_leaves (by simp [LeavesPlans])

/-- The end of the current plan (R78). -/
theorem PlanSound.endPlan {s : State} {r : Record} (h : Playing s r.tag) (o : PlanOutcome) (fault : Option Time)
    (cal : Option CalResult) : PlanSound (s.endPlan r o fault cal) := by
  have hrun := fun x hx ht => h.executes (x := x) hx ht
  obtain ⟨⟨hq, ⟨hexec, _⟩, _, hwfault⟩, hcur, _⟩ := h
  unfold State.endPlan
  refine PlanSound.afterBurst ?_ _ _
  let e : Ending := { outcome := o, release := executedRelease s.now r,
                      report := s.burst.map (fun b => b.report s.config.deviationThreshold), calResult := cal,
                      faultStamp := fault }
  have hplace : ∀ x, SamePlace x (x.finish e s.now) := fun x => finish_samePlace x e s.now
  have hmap : ((s.setLaser .off).finish r e).plans.records
      = s.plans.records.map (atTag r.tag (fun x => x.finish e s.now)) := by
    rw [finish_records_map]
    simp [State.now]
  refine ⟨hq.map hmap (atTag_continues hplace fun x hx ht => live_of_executing (hrun x hx ht)), ?_, ?_, ?_⟩
  · show CurrentExecutes ((s.setLaser .off).finish r e).plans.records none
    rw [hmap]
    refine CurrentExecutes.map_none (fun x _ => atTag_tag hplace x) fun x hx => ?_
    unfold atTag
    split
    · rfl
    · rename_i hne
      rw [Bool.eq_false_iff, ne_eq, hexec x hx, hcur]
      exact fun h => hne (Option.some.inj h).symm
  · simp [Sequencer.idle, setLaser_off_seq]
  · simpa [Sequencer.idle, setLaser_off_seq] using hwfault

theorem PlanSound.clash {s : State} {r : Record} (h : Playing s r.tag) : PlanSound (s.clash r) :=
  PlanSound.endPlan h.assertWfault _ _ _

theorem PlanSound.endTail {s : State} {r : Record} (h : Playing s r.tag) : PlanSound (s.endTail r) := by
  unfold State.endTail
  split
  · exact PlanSound.endPlan h _ _ _
  · split
    · exact PlanSound.endPlan h _ _ _
    · exact PlanSound.endPlan h _ _ _

theorem PlanSound.enterTail {s : State} {r : Record} (h : Playing s r.tag) (p : Profile) (ovr : Option Time) :
    PlanSound (s.enterTail r p ovr) := by
  let cancel := if ovr.isSome then none else r.cancel
  let u : State := (s.updateRecord r.tag (fun x => { x with state := .tail, cancel := cancel })).monitorStops
  have hu : Playing u r.tag :=
    (h.updateRecord (g := fun x => { x with state := .tail, cancel := cancel })
      (fun _ => ⟨rfl, rfl, rfl, rfl, rfl⟩) (fun _ _ => rfl)).monitorStops
  have hentered : Playing { u with seq := { u.seq with firstStep := false, overrun := ovr } } r.tag := hu
  unfold State.enterTail
  dsimp only
  split
  · exact PlanSound.endTail (r := { r with state := .tail, cancel := cancel }) hentered
  · exact (hentered.playSample _ p .tail 0 0).1

theorem Playing.pause {s : State} {r : Record} (h : Playing s r.tag) (p : Profile) (m : PauseFrom) :
    Playing (s.pause r p m) r.tag :=
  ((h.enters fun _ => rfl).emit _ _).monitorStops

theorem PlanSound.enterReady {s : State} {r : Record} (h : Playing s r.tag) (p : Profile) :
    PlanSound (s.enterReady r p) := by
  have hready : Playing ((s.updateRecord r.tag (fun x => { x with state := .ready })).emit r p.hold) r.tag :=
    (h.enters fun _ => rfl).emit _ _
  unfold State.enterReady
  dsimp only
  split
  · split
    · exact PlanSound.clash (r := { r with state := .ready }) hready
    · exact (hready.enters fun _ => rfl).1
  · exact hready.1

theorem PlanSound.advancePreheat {s : State} {r : Record} (h : Playing s r.tag) (p : Profile) (pos : Position) :
    PlanSound (s.advancePreheat r p pos) := by
  unfold State.advancePreheat
  dsimp only
  split
  · exact PlanSound.endPlan h _ _ _
  · split
    · exact (h.playSample _ _ _ _ _).1
    · exact PlanSound.enterReady h p

theorem PlanSound.advanceWrite {s : State} {r : Record} (h : Playing s r.tag) (p : Profile) (pos : Position) :
    PlanSound (s.advanceWrite r p pos) := by
  unfold State.advanceWrite
  split
  · exact (h.playSample _ _ _ _ _).1
  · split
    · exact PlanSound.enterTail h.assertWfault p none
    · exact (h.playSample _ _ _ _ _).1

theorem PlanSound.advanceTail {s : State} {r : Record} (h : Playing s r.tag) (p : Profile) (pos : Position) :
    PlanSound (s.advanceTail r p pos) := by
  unfold State.advanceTail
  split
  · exact (h.playSample _ _ _ _ _).1
  · exact PlanSound.endTail h

theorem PlanSound.endCalibration {s : State} {r : Record} (h : Playing s r.tag) (c : CalResult) :
    PlanSound (s.endCalibration r c) := by
  unfold State.endCalibration
  split
  · exact (PlanSound.endPlan h .done none (some c)).of_leaves (by simp [LeavesPlans])
  · exact (PlanSound.endPlan h _ _ _).markSuspect _
  · exact (PlanSound.endPlan h _ _ _).markSuspect _

theorem PlanSound.calibrationStep {s : State} {r : Record} (h : Playing s r.tag) (x : Search) (lo hi : Bool) :
    PlanSound (s.calibrationStep r x lo hi) := by
  unfold State.calibrationStep
  dsimp only
  split
  · exact PlanSound.endCalibration h _
  · split
    · have hpair := h.of_leaves (u := State.setReferences
        { s with search := some { x.reading lo hi with step := x.step + 1 } } 0 s.config.writeReference)
        (by simp [LeavesPlans])
      exact (hpair.setLaser _).1
    · exact (Playing.setLaser (s := { s with search := some { x.reading lo hi with step := x.step + 1 } }) h _).1

/-! ### The opening of a window (R68, R79) -/

/-- A waiting record becomes the current plan, with no plan current before it. -/
theorem Playing.opens {s : State} {r : Record} {q : Sequencer} {g : Record → Record} (h : PlanSound s)
    (hr : r ∈ s.plans.records) (hw : Waiting s r.tag) (hnone : s.seq.current = none) (hrst : s.pins.rstn = true)
    (hst : s.station ≠ .halted) (hq : q.current = some r.tag)
    (hf : q.wfault = s.seq.wfault) (hg : ∀ x, SamePlace x (g x)) (he : ∀ x, (g x).executing = true) :
    Playing (State.updateRecord { s with seq := q } r.tag g) r.tag := by
  obtain ⟨hqs, ⟨hexec, _⟩, hlaser, hwfault⟩ := h
  refine ⟨⟨hqs.map (update_records s.plans _ _) (atTag_continues hg fun x hx ht => (hw x hx ht).1), ?_,
    fun _ => ⟨by simp [hq], hst, hrst⟩, fun h => hwfault (by rw [← hf]; exact h)⟩, hq, hrst, hst⟩
  show CurrentExecutes (s.plans.records.map (atTag r.tag g)) q.current
  rw [hq]
  refine CurrentExecutes.map (fun x _ => atTag_tag hg x) (fun x hx => ?_) (fun u hu => ⟨r, hr, Option.some.inj hu⟩)
  unfold atTag
  split
  · rename_i ht
    simp [he x, ht]
  · rename_i hne
    rw [hexec x hx, hnone]
    simp [Ne.symm hne]

end Sys2Proof.Machine
end

section
/-! PROOFS. Every step keeps the laws of the Plan Queue and the Burst Sequencer. -/

namespace Sys2Proof.Machine

/-- A command answers a next state in which the laws of the Plan Queue and the sequencer hold. -/
def AnswersSound (a : Answer) : Prop := ∃ t, a = .next t ∧ PlanSound t

theorem AnswersSound.next {t : State} (h : PlanSound t) : AnswersSound (.next t) := ⟨t, rfl, h⟩

/-! ### The records at requests (R43, R52 to R61) -/

theorem mem_of_find {s : State} {t : Tag} {r : Record} (h : s.plans.find t = some r) : r ∈ s.plans.records :=
  find_mem h

/-- The current plan's record, and the plan playing where the station takes events. -/
theorem playing_of_current {s : State} (h : PlanSound s) {r : Record} (hr : s.currentRecord = some r)
    (ht : s.takesEvents = true) : Playing s r.tag := by
  obtain ⟨u, hu, hfind⟩ := Option.bind_eq_some_iff.1 hr
  obtain ⟨hrst, hst⟩ : s.pins.rstn = true ∧ s.station ≠ .halted := by simpa [State.takesEvents] using ht
  rw [find_tag hfind]
  exact ⟨h, hu, hrst, hst⟩

/-- The plan of an executing record plays, where the station takes events. -/
theorem playing_of_executing {s : State} (h : PlanSound s) {r : Record} (hr : r ∈ s.plans.records)
    (he : r.executing = true) (hrst : s.pins.rstn = true) (hst : s.station ≠ .halted) : Playing s r.tag :=
  ⟨h, (h.2.1.1 r hr).1 he, hrst, hst⟩

/-- With room in the queue the claim number given to a record is held by no other (R43). -/
theorem freeClaim_free {q : PlanQueue} (h : q.records.length < 16) {r : Record} (hr : r ∈ q.records)
    (hheld : ClaimHeld r) : r.claim ≠ q.freeClaim := by
  have hfree : q.claimUsed q.freeClaim = false := by
    by_contra hused
    have hall : ∀ n ∈ List.range 16, q.claimUsed n = true := by
      cases hfind : (List.range 16).find? (fun n => !q.claimUsed n) with
      | none => simpa using List.find?_eq_none.1 hfind
      | some n =>
        refine absurd ?_ hused
        have := List.find?_some hfind
        simpa [PlanQueue.freeClaim, hfind] using this
    have hsub : List.range 16 ⊆ q.records.map Record.claim := fun n hn => by
      obtain ⟨x, hx, hc⟩ := List.any_eq_true.1 (hall n hn)
      simp only [Bool.and_eq_true, decide_eq_true_eq] at hc
      exact List.mem_map.2 ⟨x, hx, hc.1⟩
    have := (List.nodup_range.subperm hsub).length_le
    simp only [List.length_range, List.length_map] at this
    omega
  intro hc
  have hused : q.claimUsed r.claim = true := by
    refine List.any_eq_true.2 ⟨r, hr, ?_⟩
    rcases hheld with h | h <;> simp [h]
  rw [hc, hfree] at hused
  exact Bool.false_ne_true hused

/-- What a record accepted must satisfy to join the queue. -/
structure Joins (q : PlanQueue) (r : Record) : Prop where
  room : q.records.length < 8
  tag : ∀ x ∈ q.records, x.tag ≠ r.tag
  window : ownOverlap q r = false
  claim : r.claim = q.freeClaim
  cal : r.kind = .cal → ∀ x ∈ q.records, ¬(x.live = true ∧ x.kind = .cal)
  state : r.state = .queued

theorem Joins.agrees {q : PlanQueue} {r : Record} (h : Joins q r) : ∀ x ∈ q.records, RecordsAgree x r := by
  refine fun x hx => ⟨h.tag x hx, fun hl _ => ?_, fun hheld _ => ?_, fun ⟨hlx, _, hkx, hkr⟩ => ?_⟩
  · have := List.any_eq_false.1 h.window x hx
    rw [windowsOverlap_comm]
    simpa [hl] using this
  · rw [h.claim]
    exact freeClaim_free (by have := h.room; omega) hx hheld
  · exact h.cal hkr x hx ⟨hlx, hkx⟩

theorem PlanSound.accept {s : State} {r : Record} (h : PlanSound s) (hj : Joins s.plans r) :
    PlanSound (s.accept r) := by
  have hagree := hj.agrees
  have hroom := hj.room
  obtain ⟨⟨_, hpair⟩, ⟨hexec, hheld⟩, hout⟩ := h
  refine ⟨⟨?_, ?_⟩, ⟨fun x hx => ?_, fun u hu => ?_⟩, hout⟩
  · simp only [State.accept, List.length_append, List.length_singleton]
    omega
  · refine List.pairwise_append.2 ⟨hpair, List.pairwise_singleton _ _, fun x hx y hy => ?_⟩
    rw [List.mem_singleton.1 hy]
    exact hagree x hx
  · rcases List.mem_append.1 hx with hx | hx
    · exact hexec x hx
    · rw [List.mem_singleton.1 hx]
      refine ⟨fun he => by simp [Record.executing, hj.state] at he, fun hu => ?_⟩
      obtain ⟨y, hy, ht⟩ := hheld _ hu
      exact absurd ht (hj.tag y hy)
  · obtain ⟨x, hx, ht⟩ := hheld u hu
    exact ⟨x, List.mem_append_left _ hx, ht⟩

theorem windowVerdict_ok {now : Time} {g : Nat} {q : PlanQueue} {r : Record}
    (h : windowVerdict now g q r = .ok) : ownOverlap q r = false := by
  unfold windowVerdict at h
  split at h
  · cases h
  · split at h
    · cases h
    · split at h
      · cases h
      · split at h
        · cases h
        · rename_i hov
          simpa using hov

theorem postChecks_joins {s : State} {x : PostRequest} {r : Record} (h : (s.postChecks x).2 = some r) :
    Joins s.plans r := by
  unfold State.postChecks at h
  split at h
  · cases h
  split at h
  · cases h
  split at h
  · cases h
  rename_i hroom
  split at h
  · cases h
  rename_i htag
  split at h
  · cases h
  split at h
  · cases h
  split at h
  · cases h
  dsimp only at h
  split at h
  · cases h
  split at h
  · rename_i hok
    cases h
    exact ⟨by simpa [Config.queueCapacity] using hroom, by simpa [newRecord] using htag, windowVerdict_ok hok, rfl,
      fun hk => (by cases hk), rfl⟩
  · cases h

theorem calibrateChecks_joins {s : State} {x : PostRequest} {r : Record}
    (h : (s.calibrateChecks x).2 = some r) : Joins s.plans r := by
  unfold State.calibrateChecks at h
  split at h
  · cases h
  split at h
  · cases h
  split at h
  · cases h
  split at h
  · cases h
  rename_i hroom
  split at h
  · cases h
  rename_i htag
  split at h
  · cases h
  rename_i hcal
  dsimp only at h
  split at h
  · rename_i hok
    cases h
    exact ⟨by simpa [Config.queueCapacity] using hroom, by simpa [newRecord] using htag, windowVerdict_ok hok, rfl,
      fun _ => by simpa using hcal, rfl⟩
  · cases h

theorem PlanSound.acceptOrRefuse {s : State} (h : PlanSound s) (kind : Byte) {v : Result × Option Record}
    (hv : ∀ r, v.2 = some r → Joins s.plans r) : PlanSound (s.acceptOrRefuse kind v) := by
  unfold State.acceptOrRefuse
  split
  · rename_i r hr
    exact h.accept (hv r hr)
  · exact h

theorem PlanSound.cancelRecord {s : State} {r : Record} (h : PlanSound s) (hr : r ∈ s.plans.records)
    (hrst : s.pins.rstn = true) (hst : s.station ≠ .halted) (m : CancelMode) :
    PlanSound (s.cancelRecord r m) := by
  have hwait := waiting_of_mem h hr
  have hplay : r.executing = true → Playing s r.tag := fun he => playing_of_executing h hr he hrst hst
  have hends : r.executing = true → PlanSound (s.endPlan r .cancelled none) := fun he =>
    PlanSound.endPlan (hplay he) _ _ _
  have hfaults : r.executing = true → PlanSound (s.assertWfault.endPlan r .cancelled none) := fun he =>
    PlanSound.endPlan (hplay he).assertWfault _ _ _
  have hpends : r.executing = true →
      PlanSound (s.updateRecord r.tag (fun x => { x with cancel := some .segmentEnd })) := fun he =>
    ((hplay he).updateRecord (g := fun x => { x with cancel := some .segmentEnd })
      (fun _ => ⟨rfl, rfl, rfl, rfl, rfl⟩) (fun _ h => h)).1
  unfold State.cancelRecord
  split <;> rename_i hs
  · exact h.finishWaiting (hwait (.inl hs)) _
  · exact h.updateWaiting (hwait (.inr (.inl hs))) (fun _ => ⟨rfl, rfl, rfl, rfl, rfl⟩) (fun _ he => he)
  · exact h.finishWaiting (hwait (.inr (.inr hs))) _
  · cases m
    · exact hends (by simp [Record.executing, hs])
    · exact hpends (by simp [Record.executing, hs])
  · cases m
    · exact hends (by simp [Record.executing, hs])
    · exact hpends (by simp [Record.executing, hs])
  · cases m
    · exact hfaults (by simp [Record.executing, hs])
    · exact hpends (by simp [Record.executing, hs])
  · cases m
    · exact hfaults (by simp [Record.executing, hs])
    · exact hpends (by simp [Record.executing, hs])
  · exact hends (by simp [Record.executing, hs])
  · exact hends (by simp [Record.executing, hs])
  · exact hends (by simp [Record.executing, hs])
  · exact h
  · exact h

/-- A finished record leaves the queue (R61). -/
theorem PlanSound.removeFinished {s : State} {r : Record} (h : PlanSound s) (hr : r ∈ s.plans.records)
    (hdone : r.live = false) : PlanSound { s with plans := s.plans.remove r.tag } := by
  obtain ⟨hq, ⟨hexec, hheld⟩, hout⟩ := h
  refine ⟨⟨(List.length_filter_le _ _).trans hq.1, hq.2.sublist List.filter_sublist⟩,
    ⟨fun x hx => hexec x (List.mem_filter.1 hx).1, fun u hu => ?_⟩, hout⟩
  obtain ⟨x, hx, rfl⟩ := hheld u hu
  refine ⟨x, List.mem_filter.2 ⟨hx, ?_⟩, rfl⟩
  rw [bne_iff_ne]
  intro ht
  have hrun := live_of_executing ((hexec x hx).2 hu)
  rw [eq_of_tag hq hx hr ht, hdone] at hrun
  cases hrun

theorem firstCollectable_done {q : PlanQueue} {r : Record} (h : q.firstCollectable = some r) :
    r ∈ q.records ∧ r.live = false := by
  obtain ⟨u, _, hfind⟩ := List.mem_filterMap.1 (List.mem_of_find?_eq_some h)
  have hc := List.find?_some h
  simp only [Record.collectable, Bool.and_eq_true, Bool.not_eq_true'] at hc
  exact ⟨find_mem hfind, hc.1⟩

theorem PlanSound.widenFence {s : State} (h : PlanSound s) (f : Fence) : PlanSound (s.widenFence f) := by
  refine PlanSound.finishFilter (s := { s with restrictions := { s.restrictions with fence := f } }) h
    (fun r hr => ?_) _
  simp only [Bool.and_eq_true, Bool.or_eq_true, decide_eq_true_eq] at hr
  rcases hr.2 with hs | hs
  · exact .inl hs
  · exact .inr (.inr hs)

/-! ### Restart, power-on and spindle loss (R12, R173, R174) -/

/-- No record, no plan and the laser off. -/
theorem PlanSound.of_empty {s : State} (h : s.plans.records = []) (hc : s.seq.current = none)
    (hl : s.seq.laser = .off) (hw : s.seq.wfault = true → s.pins.wgate = true ∧ s.pins.rstn = true) :
    PlanSound s := by
  refine ⟨?_, ?_, fun hon => absurd hl hon, hw⟩
  · simp [QueueSound, h]
  · simp [CurrentExecutes, h, hc]

theorem PlanSound.restart {s : State} (h : PlanSound s) (hr : s.pins.rstn = true) : PlanSound s.restart := by
  obtain ⟨_, _, _, hwfault⟩ := h.setLaserOff.assertWfault (by simpa using hr)
  refine PlanSound.of_empty rfl rfl ?_ hwfault
  simp [State.restart, State.assertWfault, Sequencer.idle, setLaser_off_seq]

/-- A record as spindle loss leaves it: finished where it was live, its release no longer pending (R12). -/
def lostRecord (e : Record → Ending) (now : Time) (x : Record) : Record :=
  { (if x.live then x.finish (e x) now else x) with releasePending := false }

theorem lostRecord_live (e : Record → Ending) (now : Time) (x : Record) : (lostRecord e now x).live = false := by
  unfold lostRecord
  split
  · rfl
  · rename_i h
    exact Bool.eq_false_iff.2 h

theorem lostRecord_samePlace (e : Record → Ending) (now : Time) (x : Record) : SamePlace x (lostRecord e now x) := by
  unfold lostRecord
  split <;> exact ⟨rfl, rfl, rfl, rfl, rfl⟩

theorem lostRecord_continues (e : Record → Ending) (now : Time) (x : Record) : Continues x (lostRecord e now x) := by
  have hlive := lostRecord_live e now x
  refine ⟨lostRecord_samePlace e now x, fun h => ?_, fun h => ?_⟩
  · simp [hlive] at h
  · rcases h with h | h
    · simp [hlive] at h
    · cases h

theorem finishAll_live_records {s : State} (h : QueueSound s) (e : Record → Ending) :
    (s.finishAll (s.plans.records.filter Record.live) e).plans.clearReleases.records
      = s.plans.records.map (lostRecord e s.now) := by
  rw [finishAll_plans s _ _ (h.nodup_filter _)]
  simp only [PlanQueue.clearReleases, List.map_map]
  refine List.map_congr_left fun x hx => ?_
  unfold lostRecord
  simp only [Function.comp_apply]
  by_cases hl : x.live = true
  · have hfind : (s.plans.records.filter Record.live).find? (fun r => decide (r.tag = x.tag)) = some x :=
      find?_eq_of_pairwise (h.2.sublist List.filter_sublist) (List.mem_filter.2 ⟨hx, hl⟩) (by simp)
        (fun y hy hR => hR.1 (by simpa using hy))
    rw [hfind, if_pos hl]
  · have hfind : (s.plans.records.filter Record.live).find? (fun r => decide (r.tag = x.tag)) = none := by
      refine List.find?_eq_none.2 fun y hy ht => hl ?_
      obtain ⟨hmem, hly⟩ := List.mem_filter.1 hy
      rwa [eq_of_tag h hmem hx (by simpa using ht)] at hly
    rw [hfind, if_neg hl]

theorem PlanSound.loseSpindle {s : State} (h : PlanSound s) (hr : s.pins.rstn = true) :
    PlanSound s.loseSpindle := by
  obtain ⟨hq, _, _, hwfault⟩ := h.setLaserOff.assertWfault (by simpa using hr)
  let u := (s.setLaser .off).assertWfault
  let v : State := { u.finishAll (u.plans.records.filter Record.live) s.spindleEnding with
    plans := (u.finishAll (u.plans.records.filter Record.live) s.spindleEnding).plans.clearReleases,
    link := (u.finishAll (u.plans.records.filter Record.live) s.spindleEnding).link.clear,
    seq := (u.finishAll (u.plans.records.filter Record.live) s.spindleEnding).seq.idle,
    burst := none, search := none }
  have hrecords : v.plans.records = u.plans.records.map (lostRecord s.spindleEnding u.now) := finishAll_live_records hq _
  have hv : PlanSound v := by
    refine ⟨hq.map hrecords fun x _ => lostRecord_continues _ _ x, ?_, ?_, ?_⟩
    · rw [hrecords]
      refine CurrentExecutes.map_none (fun x _ => (lostRecord_samePlace _ _ x).tag) fun x _ => ?_
      by_contra hrun
      have hlive := live_of_executing (Bool.not_eq_false _ ▸ hrun)
      rw [lostRecord_live] at hlive
      cases hlive
    · simp [v, u, Sequencer.idle, State.assertWfault, setLaser_off_seq]
    · simpa [v, u, Sequencer.idle] using hwfault
  have hlost := (hv.of_leaves (t := v.resolvePendingSwap) (by simp [LeavesPlans])).afterBurst
    ((s.burst.map Burst.head).getD 0) (s.burst.map (fun b => b.report s.config.deviationThreshold))
  refine hlost.of_leaves ⟨rfl, rfl, rfl, rfl, rfl, rfl, fun h => ?_⟩
  simp only [State.loseSpindle, State.writeFault_frame] at h
  split at h <;> cases h

end Sys2Proof.Machine
end

section
/-! PROOFS. Every step keeps the laws of the Plan Queue and the Burst Sequencer: the commands, then the step. -/

namespace Sys2Proof.Machine

/-! ### The frames of the link and the pulses -/

/-- An INDEX pulse does not halt the station. -/
theorem pulseListen_halted {s : State} (h : s.pulseListen.station = .halted) : s.station = .halted := by
  unfold State.pulseListen at h
  split at h
  · rename_i hst
    dsimp only at h
    split at h
    · cases h
    · simp [hst] at h
  · exact h

theorem peerPulse_halted {s : State} (h : s.peerPulse.station = .halted) : s.station = .halted := by
  have hpulse : s.pulseLost.pulseListen.pulseQuiet.pulseReRequest.pulseRequester.station = .halted →
      s.station = .halted := fun h => by
    have hlisten : s.pulseLost.pulseListen.station = .halted := by simpa using h
    simpa using pulseListen_halted hlisten
  unfold State.peerPulse at h
  split at h
  · dsimp only at h
    split at h
    · exact hpulse h
    · exact hpulse h
  · exact h

theorem PlanSound.takePulse {s : State} (h : PlanSound s) (i : Nat) : PlanSound (s.takePulse i) := by
  have hpulse := peerPulse_halted (s := { s.resolveDueSwap with clock := s.clock.pulse i })
  unfold State.takePulse
  split
  · refine h.of_leaves ⟨?_, ?_, ?_, ?_, ?_, ?_, fun hh => ?_⟩
    · simp
    · simp
    · simp
    · simp
    · simp
    · simp
    · simpa using hpulse hh
  · exact h

/-- A record that becomes CLAIMING goes on waiting (R45). -/
theorem PlanSound.startFrame {s : State} (h : PlanSound s) (e : TxEntry) : PlanSound (s.startFrame e) := by
  obtain ⟨hq, ⟨hexec, hheld⟩, hout⟩ := h
  cases e with
  | claim n k ws we l =>
    let g : Record → Record := fun r =>
      if r.state = .queued ∧ r.claim = n then { r with state := .claiming } else r
    have hrecords : (s.startFrame (.claim n k ws we l)).plans.records = s.plans.records.map g := rfl
    have htag : ∀ x, (g x).tag = x.tag := fun x => by
      simp only [g]
      split <;> rfl
    refine ⟨hq.map hrecords fun x _ => ?_, hrecords ▸ CurrentExecutes.map (fun x _ => htag x) (fun x hx => ?_) hheld,
      hout⟩
    · simp only [g]
      split
      · rename_i hs
        exact Continues.of_live ⟨rfl, rfl, rfl, rfl, rfl⟩ (by simp [Record.live, hs.1])
      · exact Continues.refl x
    · refine Iff.trans ?_ (hexec x hx)
      simp only [g]
      split
      · rename_i hs
        simp [Record.executing, hs.1]
      · rfl
  | _ => exact ⟨hq, ⟨hexec, hheld⟩, hout⟩

/-- The release transmitted frees its claim number (R25). -/
theorem PlanSound.releaseSent {s : State} (h : PlanSound s) (n : Nat) :
    PlanSound { s with plans := s.plans.releaseSent n } := by
  obtain ⟨hq, ⟨hexec, hheld⟩, hout⟩ := h
  let g : Record → Record := fun r =>
    if r.releasePending ∧ r.claim = n then { r with releasePending := false } else r
  have hrecords : (s.plans.releaseSent n).records = s.plans.records.map g := rfl
  refine ⟨hq.map hrecords fun x _ => ?_, ?_, hout⟩
  · simp only [g]
    split
    · rename_i hs
      exact ⟨⟨rfl, rfl, rfl, rfl, rfl⟩, id, fun _ => .inr hs.1⟩
    · exact Continues.refl x
  · rw [hrecords]
    refine CurrentExecutes.map (fun x _ => ?_) (fun x hx => ?_) hheld
    · simp only [g]
      split <;> rfl
    · refine Iff.trans ?_ (hexec x hx)
      simp only [g]
      split <;> rfl

theorem waiting_of_claiming {s : State} (h : PlanSound s) {n : Nat} {r : Record}
    (hr : s.plans.claiming n = some r) : Waiting s r.tag := by
  have hs := List.find?_some hr
  simp only [Bool.and_eq_true, decide_eq_true_eq] at hs
  exact waiting_of_mem h (List.mem_of_find?_eq_some hr) (.inr (.inl hs.1))

theorem PlanSound.claimVerdict {s : State} {r : Record} (h : PlanSound s) (hw : Waiting s r.tag) (v : Verdict)
    (hint : Option Time) : PlanSound (s.claimVerdict r v hint) := by
  have hfinish := fun e => h.finishWaiting hw e
  have hgranted : PlanSound (s.updateRecord r.tag (fun x => { x with state := .granted })) :=
    h.updateWaiting hw (fun _ => ⟨rfl, rfl, rfl, rfl, rfl⟩) (fun _ _ => rfl)
  unfold State.claimVerdict
  dsimp only
  split
  · exact hfinish _
  split
  · exact hfinish _
  split
  · exact hfinish _
  split
  · split
    · exact hfinish _
    · exact hgranted
  · exact hfinish _
  · exact hfinish _

theorem PlanSound.errorTaken {s : State} (h : PlanSound s) : PlanSound s.errorTaken :=
  h.of_leaves (by simp [LeavesPlans])

theorem PlanSound.loopClaim {s : State} (h : PlanSound s) (stamp : Time) (n : Nat) (k : PlanKind)
    (ws we : Time) (level : Nat) : PlanSound (s.loopClaim stamp n k ws we level) := by
  have hadm : PlanSound { s with table := (admission (purge s.table stamp) s.config.bTotal s.number stamp
      (BitVec.ofNat 8 n) (kindByte k) ws we (BitVec.ofNat 8 level)).2 } := h
  unfold State.loopClaim
  dsimp only
  split
  · split
    · rename_i hr
      exact (hadm.claimVerdict (waiting_of_claiming hadm hr) _ _).errorTaken
    · exact hadm.errorTaken
  · split
    · rename_i hr
      exact hadm.claimVerdict (waiting_of_claiming hadm hr) _ _
    · exact hadm

theorem PlanSound.loopback {s : State} (h : PlanSound s) (f : LinkFrame) : PlanSound (s.loopback f) := by
  unfold State.loopback
  split
  · rename_i hframes
    split
    · exact h.loopClaim _ _ _ _ _ _
    · unfold State.loopRelease
      dsimp only
      split
      · exact PlanSound.errorTaken (h.releaseSent _)
      · exact h.releaseSent _
    · exact h
    · dsimp only
      split
      · exact h.of_leaves (by simp [LeavesPlans])
      · exact h
    · split
      · exact h.of_leaves (by simp [LeavesPlans])
      · exact h
    · exact h
    · dsimp only
      split
      · refine h.of_leaves ⟨rfl, rfl, rfl, rfl, rfl, rfl, fun hh => ?_⟩
        simp only [State.endResync] at hh
        split at hh
        · cases hh
        · exact hh
      · exact h
  · exact h

theorem PlanSound.complete {s : State} (h : PlanSound s) (o : OnLine) : PlanSound (s.complete o) := by
  unfold State.complete
  dsimp only
  split
  · exact h
  · exact PlanSound.loopback (s := { s with link := s.link.completed o.discard }) h _

theorem PlanSound.claimCollided {s : State} (h : PlanSound s) (n : Nat) : PlanSound (s.claimCollided n) := by
  unfold State.claimCollided
  split
  · exact h
  · rename_i r hr
    have hw := waiting_of_claiming h hr
    have hqueued : PlanSound (s.updateRecord r.tag (fun x => { x with state := .queued })) :=
      h.updateWaiting hw (fun _ => ⟨rfl, rfl, rfl, rfl, rfl⟩) (fun _ _ => rfl)
    have hwq : Waiting (s.updateRecord r.tag (fun x => { x with state := .queued })) r.tag := fun x hx _ => by
      obtain ⟨y, hy, rfl⟩ := List.mem_map.1 hx
      by_cases ht : y.tag = r.tag
      · simp [ht, Record.live, Record.executing]
      · simp_all
    have hfinish : ∀ e, PlanSound (State.finish (s.updateRecord r.tag (fun x => { x with state := .queued }))
        { r with state := .queued } e) := fun e => hqueued.finishWaiting hwq e
    dsimp only
    split
    · exact hfinish _
    split
    · exact hfinish _
    split
    · exact hfinish _
    · exact hqueued

theorem PlanSound.claimReturned {s : State} (h : PlanSound s) (n : Nat) : PlanSound (s.claimReturned n) := by
  unfold State.claimReturned
  split
  · exact h
  · rename_i r hr
    exact h.updateWaiting (waiting_of_claiming h hr) (fun _ => ⟨rfl, rfl, rfl, rfl, rfl⟩) (fun _ _ => rfl)

theorem claimReturned_pins (s : State) (n : Nat) : (s.claimReturned n).pins = s.pins := by
  unfold State.claimReturned
  split <;> simp

theorem PlanSound.collide {s : State} (h : PlanSound s) (hr : s.pins.rstn = true) (o : OnLine) :
    PlanSound (s.collide o) := by
  have honce : PlanSound { s with link := s.link.collidedOnce } := h
  unfold State.collide
  split
  · exact h
  · dsimp only
    split
    · split
      · exact (honce.claimReturned _).halt (by rw [claimReturned_pins]; exact hr) _ _
      · exact honce.halt hr _ _
    · split
      · exact honce.claimCollided _
      · exact honce

theorem PlanSound.takeFrame {s : State} {act : State → State} (h : PlanSound s) (n : Station) (stamp : Option Time)
    (hact : ∀ u, LeavesPlans u (act u)) : PlanSound (s.takeFrame n stamp act) := by
  unfold State.takeFrame
  split
  · rename_i hreceives
    have hrst := ((receives_iff s).1 hreceives).1
    have htaken : PlanSound { s with link := s.link.frameTaken } := h
    dsimp only
    split
    · unfold State.ownNumberFrame
      split
      · exact htaken
      · exact htaken.halt hrst _ _
    · exact htaken.of_leaves (hact _)
  · exact h.of_leaves (by simp [LeavesPlans])

/-! ### The commands that leave records and plan alone -/

theorem execConfigure_sound (p : List Byte) {s : State} (h : PlanSound s) : AnswersSound (execConfigure p s) := by
  refine .next (h.request _ _ _ fun _ => ?_)
  repeat' split
  all_goals exact h

theorem execLoad_sound (p : List Byte) {s : State} (h : PlanSound s) : AnswersSound (execLoad p s) := by
  refine .next (h.request _ _ _ fun _ => ?_)
  dsimp only
  repeat' split
  all_goals exact h

theorem execData_sound (p : List Byte) (more : Bool) {s : State} (h : PlanSound s) :
    AnswersSound (execData p more s) := by
  refine .next (h.request _ _ _ fun _ => ?_)
  unfold State.takeDataFrame
  dsimp only
  repeat' split
  all_goals exact h

theorem execSwap_sound (p : List Byte) {s : State} (h : PlanSound s) : AnswersSound (execSwap p s) := by
  refine .next (h.request _ _ _ fun _ => ?_)
  dsimp only
  repeat' split
  all_goals exact h.of_leaves (by simp [LeavesPlans])

theorem execSetHead_sound (p : List Byte) {s : State} (h : PlanSound s) : AnswersSound (execSetHead p s) := by
  refine .next (h.request _ _ _ fun _ => ?_)
  dsimp only
  repeat' split
  all_goals exact h

theorem execReadHead_sound (p : List Byte) {s : State} (h : PlanSound s) : AnswersSound (execReadHead p s) := by
  refine .next (h.request _ _ _ fun _ => ?_)
  dsimp only
  repeat' split
  all_goals exact h

theorem execQuery_sound (p : List Byte) {s : State} (h : PlanSound s) : AnswersSound (execQuery p s) := by
  refine .next (h.request _ _ _ fun _ => ?_)
  repeat' split
  all_goals exact h

theorem execPlanPortFrameError_sound {s : State} (h : PlanSound s) : AnswersSound (execPlanPortFrameError s) := by
  refine .next ?_
  split
  · exact h
  · exact h

theorem execUnknownKind_sound (k : Byte) (p : List Byte) {s : State} (h : PlanSound s) :
    AnswersSound (execUnknownKind k p s) := by
  refine .next ?_
  split
  · exact h
  · exact h

theorem execClockHold_sound {s : State} (h : PlanSound s) : AnswersSound (execClockHold s) := by
  refine .next ?_
  split
  · exact h.atTime _ fun _ => h
  · exact h

theorem execLinkFrameError_sound (low : Bool) {s : State} (h : PlanSound s) :
    AnswersSound (execLinkFrameError low s) := by
  refine .next ?_
  split
  · exact h.of_leaves (by simp [LeavesPlans])
  · split
    · exact h.of_leaves (by simp [LeavesPlans])
    · exact h

theorem execIdle_sound {s : State} (h : PlanSound s) : AnswersSound (execIdleForMoreThan20BitTimes s) := by
  refine .next ?_
  split
  · exact h
  · exact h

/-! ### The commands of the station's own frames -/

theorem execFrameStart_sound (idle : Nat) {s : State} (h : PlanSound s) : AnswersSound (execFrameStart idle s) := by
  refine .next ?_
  split
  · split
    · exact h.startFrame _
    · exact h
  · exact h

theorem execTransmissionCompletes_sound {s : State} (h : PlanSound s) :
    AnswersSound (execTransmissionCompletes s) := by
  refine .next ?_
  split
  · split
    · exact h.complete _
    · exact h
  · exact h

theorem execCollision_sound {s : State} (h : PlanSound s) : AnswersSound (execCollision s) := by
  refine .next ?_
  split
  · split
    · rename_i hr
      exact h.collide hr _
    · exact h
  · exact h

/-! ### The commands that change records and plan -/

theorem execStart_sound (p : List Byte) {s : State} (h : PlanSound s) : AnswersSound (execStart p s) := by
  refine .next (h.request _ _ _ fun _ => ?_)
  split
  · exact h
  split
  · exact h
  split
  · exact h
  have hfence : ∀ u : State, PlanSound u → PlanSound (State.answer { u with
      station := .listen, peers := u.peers.enterListen, link := { u.link with receiver := .waitingIdle } } 0x11 .ok) :=
    fun u hu => hu.of_leaves ⟨rfl, rfl, rfl, rfl, rfl, rfl, fun hh => by cases hh⟩
  dsimp only
  split
  · exact hfence s h
  · exact hfence _ (h.widenFence _)

theorem execCancel_sound (p : List Byte) {s : State} (h : PlanSound s) : AnswersSound (execCancel p s) := by
  refine .next (h.request _ _ _ fun hr => ?_)
  split
  · exact h
  rename_i hst
  split
  · exact h
  split
  · exact h
  rename_i hfind
  split
  · exact h
  · exact h.cancelRecord (mem_of_find hfind) hr hst _

theorem execCollect_sound (p : List Byte) {s : State} (h : PlanSound s) : AnswersSound (execCollect p s) := by
  refine .next (h.request _ _ _ fun _ => ?_)
  split
  · exact h
  split
  · exact h
  · rename_i hc
    obtain ⟨hmem, hdone⟩ := firstCollectable_done hc
    exact h.removeFinished hmem hdone

theorem execWithdraw_sound (p : List Byte) {s : State} (h : PlanSound s) : AnswersSound (execWithdraw p s) := by
  refine .next (h.request _ _ _ fun _ => ?_)
  split
  · exact h
  split
  · exact h
  split
  · exact h
  dsimp only
  split
  · split
    · exact h
    · exact h
  · split
    · exact h
    · exact PlanSound.widenFence (s := s.withdrawCapabilities _ _ _) h _

theorem execRestart_sound (p : List Byte) {s : State} (h : PlanSound s) : AnswersSound (execRestart p s) := by
  refine .next (h.request _ _ _ fun hr => ?_)
  split
  · exact h.restart hr
  · exact h

theorem execRstnFalls_sound {s : State} (h : PlanSound s) : AnswersSound (execRstnFalls s) := by
  refine .next ?_
  split
  · exact h
  · obtain ⟨hq, hc, _, hwfault⟩ := h.setLaserOff.releaseWfault
    refine ⟨hq, hc, fun hon => ?_, fun hw => by cases hw⟩
    exact absurd (by simp [State.releaseWfault, setLaser_off_seq]) hon

/-- A pin other than WGATE and RSTn does not concern the laws. -/
theorem Playing.of_currentRecord {s : State} (h : PlanSound s) {r : Record} (hr : s.currentRecord = some r)
    (hrst : s.pins.rstn = true) (hst : s.station ≠ .halted) : Playing s r.tag :=
  playing_of_current h hr (by simp [State.takesEvents, hrst, hst])

theorem PlanSound.strayGate {s : State} (h : PlanSound s) (hr : s.pins.rstn = true) : PlanSound s.strayGate :=
  (h.assertWfault hr).of_leaves (by simp [LeavesPlans, State.strayGate])

theorem Playing.startWrite {s : State} {r : Record} (h : Playing s r.tag) (p : Profile) :
    Playing (s.startWrite r p) r.tag := by
  have hwriting := h.enters (st := .writing) fun _ => rfl
  unfold State.startWrite
  exact Playing.playSample (hwriting.of_leaves (by simp [LeavesPlans])) _ _ _ _ _

theorem PlanSound.planGateRise {s : State} {r : Record} (h : Playing s r.tag) : PlanSound (s.planGateRise r) := by
  unfold State.planGateRise
  split
  · exact (h.startWrite _).1
  · exact PlanSound.clash h
  · exact PlanSound.endPlan h.assertWfault _ _ _
  · exact PlanSound.endPlan h.assertWfault _ _ _
  · exact PlanSound.endPlan h.assertWfault _ _ _
  · exact h.1.strayGate h.2.2.1
  · exact h.1

theorem execWgateRise_sound {s : State} (h : PlanSound s) : AnswersSound (execWgateRise s) := by
  obtain ⟨hq, hc, hlaser, hwfault⟩ := h
  have hpins : PlanSound { s with pins := { s.pins with wgate := true } } :=
    ⟨hq, hc, hlaser, fun hw => ⟨rfl, (hwfault hw).2⟩⟩
  refine .next ?_
  split
  · exact ⟨hq, hc, hlaser, hwfault⟩
  dsimp only
  split
  · exact hpins
  rename_i hrst
  have hrst : s.pins.rstn = true := by simpa using hrst
  split
  · exact hpins.strayGate hrst
  rename_i hst
  split
  · rename_i hr
    exact PlanSound.planGateRise (Playing.of_currentRecord hpins hr hrst hst)
  · exact hpins.strayGate hrst

theorem execWgateFall_sound {s : State} (h : PlanSound s) : AnswersSound (execWgateFall s) := by
  refine .next ?_
  split
  · exact h
  obtain ⟨hq, hc, hlaser, hwfault⟩ := h
  have hreleased : PlanSound (State.releaseWfault { s with pins := { s.pins with wgate := false } }) :=
    ⟨hq, hc, hlaser, fun hw => by cases hw⟩
  dsimp only
  split
  · rename_i hrst
    refine ⟨hq, hc, hlaser, fun hw => ?_⟩
    have := (hwfault hw).2
    simp [this] at hrst
  rename_i hrst
  have hrst : s.pins.rstn = true := by simpa using hrst
  split
  · exact hreleased
  rename_i hst
  split
  · rename_i r hr
    have hplay : Playing (State.releaseWfault { s with pins := { s.pins with wgate := false } }) r.tag :=
      Playing.of_currentRecord hreleased hr hrst hst
    unfold State.planGateFall
    split
    · exact PlanSound.enterTail hplay _ _
    · exact PlanSound.enterTail hplay _ _
    · exact hreleased
  · exact hreleased

theorem PlanSound.planServoRise {s : State} {r : Record} (h : Playing s r.tag) : PlanSound (s.planServoRise r) := by
  unfold State.planServoRise
  split
  · exact (h.pause _ _).1
  · split
    · exact PlanSound.clash h
    · exact (h.pause _ _).1
  · split
    · exact PlanSound.clash h
    · exact (h.pause _ _).1
  · exact h.1

theorem execSgateRise_sound {s : State} (h : PlanSound s) : AnswersSound (execSgateRise s) := by
  have hpins : PlanSound { s with pins := { s.pins with sgate := true } } := h
  refine .next ?_
  split
  · exact h
  dsimp only
  split
  · rename_i ht
    split
    · rename_i hr
      exact PlanSound.planServoRise (playing_of_current hpins hr ht)
    · exact hpins
  · exact hpins

theorem PlanSound.planServoFall {s : State} {r : Record} (h : Playing s r.tag) : PlanSound (s.planServoFall r) := by
  unfold State.planServoFall
  split
  · exact PlanSound.advancePreheat (r := { r with state := .preheat }) (h.enters fun _ => rfl) _ _
  · exact (h.enters fun _ => rfl).1
  · exact PlanSound.advanceWrite (r := { r with state := .writing }) (h.enters fun _ => rfl) _ _
  · exact h.1

theorem execSgateFall_sound {s : State} (h : PlanSound s) : AnswersSound (execSgateFall s) := by
  have hpins : PlanSound { s with pins := { s.pins with sgate := false } } := h
  refine .next ?_
  split
  · exact h
  dsimp only
  split
  · rename_i ht
    split
    · rename_i hr
      exact PlanSound.planServoFall (playing_of_current hpins hr ht)
    · exact hpins
  · exact hpins

theorem execRailAlertRise_sound {s : State} (h : PlanSound s) : AnswersSound (execRailAlertRise s) := by
  have hpins : PlanSound { s with pins := { s.pins with railAlert := true } } := h
  refine .next ?_
  dsimp only
  split
  · rename_i ht
    split
    · rename_i hr
      exact PlanSound.endPlan (playing_of_current hpins hr ht).assertWfault _ _ _
    · exact hpins
  · exact hpins

/-! ### Windows, deadlines and steps -/

theorem PlanSound.openRail {s : State} {r : Record} (h : PlanSound s) (hw : Waiting s r.tag)
    (hr : s.pins.rstn = true) : PlanSound (s.openRail r) :=
  (h.assertWfault hr).finishWaiting hw _

theorem PlanSound.openWrite {s : State} {r : Record} (h : PlanSound s) (hr : r ∈ s.plans.records)
    (hw : Waiting s r.tag) (hnone : s.seq.current = none) (hrst : s.pins.rstn = true) (hst : s.station ≠ .halted)
    (p : Profile) : PlanSound (s.openWrite r p) := by
  have hopens : ∀ (q : Sequencer) (st : RecordState), q.current = some r.tag → q.wfault = s.seq.wfault →
      (∀ x : Record, Record.executing { x with state := st } = true) →
      Playing (State.updateRecord { s with seq := q } r.tag (fun x => { x with state := st })) r.tag :=
    fun q st hq hf he => Playing.opens h hr hw hnone hrst hst hq hf (fun _ => ⟨rfl, rfl, rfl, rfl, rfl⟩) he
  let q : Sequencer := { s.seq with
    current := some r.tag, profile := some p, captured := some (s.capture r.head), overrun := none }
  let first : Position := { phase := .preheat, segment := 0, sample := none }
  unfold State.openWrite
  dsimp only
  split
  · exact (((hopens { q with position := some first } (.paused .preheat) rfl rfl fun _ => rfl).emit _ _).monitorStops).1
  · exact ((hopens q .preheat rfl rfl fun _ => rfl).playSample _ _ _ _ _).1

theorem PlanSound.openCal {s : State} {r : Record} (h : PlanSound s) (hr : r ∈ s.plans.records)
    (hw : Waiting s r.tag) (hnone : s.seq.current = none) (hrst : s.pins.rstn = true)
    (hst : s.station ≠ .halted) : PlanSound (s.openCal r) := by
  let q : Sequencer := { s.seq with current := some r.tag, profile := none, captured := none, overrun := none }
  have hopens : Playing (State.updateRecord { s with seq := q } r.tag (fun x => { x with state := .calibrating }))
      r.tag := Playing.opens h hr hw hnone hrst hst rfl rfl (fun _ => ⟨rfl, rfl, rfl, rfl, rfl⟩) (fun _ => rfl)
  unfold State.openCal
  exact (Playing.setLaser (hopens.of_leaves (by simp [LeavesPlans, q])) _).1

theorem execWriteWindowOpens_sound (tag : Tag) (rail : Bool) {s : State} (h : PlanSound s) :
    AnswersSound (execWriteWindowOpens tag rail s) := by
  refine .next ?_
  split
  · exact h
  rename_i r hfind
  split
  · exact h
  split
  · rename_i hc
    simp only [State.takesEvents, Bool.and_eq_true, decide_eq_true_eq, Option.isNone_iff_eq_none] at hc
    obtain ⟨⟨⟨⟨⟨hrst, hst⟩, hs⟩, _⟩, hnone⟩, _⟩ := hc
    have hw := waiting_of_mem h (mem_of_find hfind) (.inr (.inr hs))
    refine h.atTime _ fun c => ?_
    let u : State := State.setRail { s with clock := c } rail
    have hu : PlanSound u := h
    split
    · exact PlanSound.openRail hu hw hrst
    · exact PlanSound.openWrite (s := u) hu (mem_of_find hfind) hw hnone hrst hst _
  · exact h

theorem execCalWindowOpens_sound (tag : Tag) (rail : Bool) {s : State} (h : PlanSound s) :
    AnswersSound (execCalWindowOpens tag rail s) := by
  refine .next ?_
  split
  · exact h
  rename_i r hfind
  split
  · rename_i hc
    simp only [State.takesEvents, Bool.and_eq_true, decide_eq_true_eq, Option.isNone_iff_eq_none] at hc
    obtain ⟨⟨⟨⟨⟨hrst, hst⟩, hs⟩, _⟩, hnone⟩, _⟩ := hc
    have hw := waiting_of_mem h (mem_of_find hfind) (.inr (.inr hs))
    refine h.atTime _ fun c => ?_
    let u : State := State.setRail { s with clock := c } rail
    have hu : PlanSound u := h
    split
    · exact PlanSound.openRail hu hw hrst
    · exact PlanSound.openCal (s := u) hu (mem_of_find hfind) hw hnone hrst hst
  · exact h

theorem execWindowEndReached_sound {s : State} (h : PlanSound s) : AnswersSound (execWindowEndReached s) := by
  refine .next ?_
  split
  · exact h
  rename_i hr
  split
  · rename_i hc
    have hplay := playing_of_current h hr ((Bool.and_eq_true _ _).mp hc).1
    exact h.atTime _ fun c => PlanSound.endTail (s := { s with clock := c }) hplay
  · exact h

theorem execWriteStartDeadline_sound {s : State} (h : PlanSound s) : AnswersSound (execWriteStartDeadline s) := by
  refine .next ?_
  split
  · rename_i hr _
    split
    · rename_i hc
      have hplay := playing_of_current h hr ((Bool.and_eq_true _ _).mp hc).1
      exact h.atTime _ fun c => PlanSound.endPlan (s := { s with clock := c }) hplay _ _ _
    · exact h
  · exact h

theorem execWriteDeadline_sound {s : State} (h : PlanSound s) : AnswersSound (execWriteDeadline s) := by
  refine .next ?_
  split
  · rename_i hr _
    split
    · rename_i hc
      have hplay := playing_of_current h hr ((Bool.and_eq_true _ _).mp hc).1
      exact h.atTime _ fun c => PlanSound.enterTail (Playing.assertWfault (s := { s with clock := c }) hplay) _ _
    · exact h
  · exact h

theorem execTransmitDeadline_sound (tag : Tag) {s : State} (h : PlanSound s) :
    AnswersSound (execTransmitDeadline tag s) := by
  refine .next ?_
  split
  · exact h
  rename_i hfind
  split
  · rename_i hc
    simp only [Bool.and_eq_true, decide_eq_true_eq] at hc
    have hw := waiting_of_mem h (mem_of_find hfind) (.inl hc.2)
    exact h.atTime _ fun c => PlanSound.finishWaiting (s := { s with clock := c }) h hw _
  · exact h

theorem PlanSound.profileStep {s : State} {r : Record} (h : Playing s r.tag) (p : Profile) (pos : Position)
    (lo hi : Bool) : PlanSound (s.profileStep r p pos lo hi) := by
  unfold State.profileStep
  split
  · exact PlanSound.advancePreheat h _ _
  · exact PlanSound.advanceWrite (h.of_leaves (by simp [LeavesPlans])) _ _
  · exact PlanSound.advanceTail h _ _
  · exact h.1

theorem execProfileStepEnd_sound (lo hi : Bool) {s : State} (h : PlanSound s) :
    AnswersSound (execProfileStepEnd lo hi s) := by
  have hlines : PlanSound (s.setMonitorLines lo hi) := h
  refine .next ?_
  dsimp only
  split
  · rename_i ht
    split
    · rename_i hr _ _
      exact PlanSound.profileStep (playing_of_current hlines hr ht) _ _ _ _
    · exact hlines
  · exact hlines

theorem execCalibrationStepEnd_sound (lo hi : Bool) {s : State} (h : PlanSound s) :
    AnswersSound (execCalibrationStepEnd lo hi s) := by
  have hlines : PlanSound (s.setMonitorLines lo hi) := h
  refine .next ?_
  dsimp only
  split
  · rename_i hr _
    split
    · rename_i hc
      have hplay := playing_of_current hlines hr ((Bool.and_eq_true _ _).mp hc).1
      exact hlines.atTime _ fun c =>
        PlanSound.calibrationStep (s := { s.setMonitorLines lo hi with clock := c }) hplay _ _ _
    · exact hlines
  · exact hlines

theorem execSpindleLoss_sound {s : State} (h : PlanSound s) : AnswersSound (execSpindleLoss s) := by
  refine .next ?_
  split
  · rename_i hc
    simp only [Bool.and_eq_true] at hc
    dsimp only
    split
    · exact h
    · exact PlanSound.loseSpindle (s := { s with clock := s.clock.lost }) h hc.1.1
  · exact h

/-! ### The step -/

theorem PlanSound.poweredOn (straps : Station) (pins : Pins) (pending : List Instr) (free : Nat) :
    PlanSound (poweredOn straps pins pending free) :=
  PlanSound.of_empty rfl rfl rfl fun h => by cases h

/-- A frame of another unit concerns neither law where what its kind does leaves both. -/
theorem takeFrame_sound {s : State} {act : State → State} (h : PlanSound s) (n : Station) (stamp : Option Time)
    (hact : ∀ u, LeavesPlans u (act u)) : AnswersSound (.next (s.takeFrame n stamp act)) :=
  .next (h.takeFrame n stamp hact)

/-- A pulse of its own kind is taken as a pulse. -/
theorem takePulse_sound {s : State} (h : PlanSound s) (c : Bool) (i : Nat) :
    AnswersSound (.next (if c then s.takePulse i else s)) := by
  refine .next ?_
  split
  · exact h.takePulse i
  · exact h

theorem exec_sound (c : Instr) {s : State} (h : PlanSound s) : AnswersSound (exec c s) := by
  cases c with
  | configure p => exact execConfigure_sound p h
  | start p => exact execStart_sound p h
  | load p => exact execLoad_sound p h
  | data p more => exact execData_sound p more h
  | swap p => exact execSwap_sound p h
  | setHead p => exact execSetHead_sound p h
  | readHead p => exact execReadHead_sound p h
  | calibrate p => exact .next (h.request _ _ _ fun _ => h.acceptOrRefuse _ fun _ => calibrateChecks_joins)
  | post p => exact .next (h.request _ _ _ fun _ => h.acceptOrRefuse _ fun _ => postChecks_joins)
  | cancel p => exact execCancel_sound p h
  | query p => exact execQuery_sound p h
  | collect p => exact execCollect_sound p h
  | status p => exact .next (h.request _ _ _ fun _ => h)
  | identify p => exact .next (h.request _ _ _ fun _ => h)
  | withdraw p => exact execWithdraw_sound p h
  | restart p => exact execRestart_sound p h
  | planPortFrameError => exact execPlanPortFrameError_sound h
  | unknownKind k p => exact execUnknownKind_sound k p h
  | powerOn straps => exact .next (PlanSound.poweredOn straps { s.pins with rstn := true } s.pending s.free)
  | indexPulse i => exact .next (h.takePulse i)
  | clockHold => exact execClockHold_sound h
  | spindleLoss => exact execSpindleLoss_sound h
  | peerLost n i => exact takePulse_sound h _ i
  | listenEnd i => exact takePulse_sound h _ i
  | resyncTimeout i => exact takePulse_sound h _ i
  | quietTimeout i => exact takePulse_sound h _ i
  | wgateRise => exact execWgateRise_sound h
  | wgateFall => exact execWgateFall_sound h
  | sgateRise => exact execSgateRise_sound h
  | sgateFall => exact execSgateFall_sound h
  | railAlertRise => exact execRailAlertRise_sound h
  | writeWindowOpens t rail => exact execWriteWindowOpens_sound t rail h
  | calWindowOpens t rail => exact execCalWindowOpens_sound t rail h
  | profileStepEnd lo hi => exact execProfileStepEnd_sound lo hi h
  | windowEndReached => exact execWindowEndReached_sound h
  | writeStartDeadline => exact execWriteStartDeadline_sound h
  | writeDeadline => exact execWriteDeadline_sound h
  | transmitDeadline t => exact execTransmitDeadline_sound t h
  | calibrationStepEnd lo hi => exact execCalibrationStepEnd_sound lo hi h
  | swapResolution => exact .next (h.of_leaves (by simp [LeavesPlans]))
  | frameStart idle => exact execFrameStart_sound idle h
  | transmissionCompletes => exact execTransmissionCompletes_sound h
  | collision => exact execCollision_sound h
  | linkFrameError low => exact execLinkFrameError_sound low h
  | join n t u b => exact takeFrame_sound h n _ fun _ => by simp [LeavesPlans]
  | beacon n t d k y b => exact takeFrame_sound h n _ fun _ => by simp [LeavesPlans]
  | claim n t c k ws we l b => exact takeFrame_sound h n _ fun _ => by simp [LeavesPlans]
  | release n t c x b => exact takeFrame_sound h n _ fun _ => by simp [LeavesPlans]
  | syncRequest n => exact takeFrame_sound h n _ fun _ => by simp [LeavesPlans]
  | announce n f es => exact takeFrame_sound h n _ fun _ => by simp [LeavesPlans]
  | syncDone n t d b => exact takeFrame_sound h n _ fun _ => by simp [LeavesPlans]
  | rstnFalls => exact execRstnFalls_sound h
  | idleForMoreThan20BitTimes => exact execIdle_sound h

theorem PlanSound.tick {s : State} (h : PlanSound s) : PlanSound s.tick := by
  unfold State.tick
  split
  · exact h
  · exact h

/-- Settles O56: the two laws together, for a record may finish or execute only as the sequencer has it. -/
theorem queueAndSequencerInvariant : Obligations.QueueAndSequencerInvariant := by
  intro s t hq hs h
  rw [← planSound_iff]
  refine law_of_step (fun _ _ h => h) (fun c u v hu hv => ?_) (fun _ h => h.tick) ((planSound_iff s).2 ⟨hq, hs⟩) h
  obtain ⟨w, hw, hsound⟩ := exec_sound c hu
  rw [hv] at hw
  cases hw
  exact hsound

end Sys2Proof.Machine
end

section
/-! PROOFS. The step, power-on, the sample code, CONFIGURE and START. -/

namespace Sys2Proof.Machine

/-! ### The step -/

/-- Settles O1. -/
theorem stepRunsFrontCommand : Obligations.StepRunsFrontCommand := fun _ _ _ => rfl

theorem step_of_due {s : State} (hq : s.pending = []) {c : Instr} (hc : s.dueEvent = some c) :
    step s = exec c s := by
  simp [step, hq, idleStep, hc]

theorem step_of_notDue {s : State} (hq : s.pending = []) (hc : s.dueEvent = none) : step s = .next s.tick := by
  simp [step, hq, idleStep, hc]

/-- The clock below 4095 advances by one angle unit, and holds at 4095 (R3). -/
theorem tick_running {s : State} (hr : s.pins.rstn = true) (hv : s.clock.valid = true) (hh : s.clock.hold = false)
    (ha : s.clock.angle ≠ 4095) : s.tick = { s with clock :=
      { s.clock with angle := s.clock.angle + 1, hold := decide (s.clock.angle = 4094) } } := by
  have hangle : s.clock.angle + 1 = 4095 ↔ s.clock.angle = 4094 := by
    constructor <;> intro h <;> bv_omega
  have hruns : (s.pins.rstn && s.clock.running && decide (s.clock.angle ≠ 4095)) = true := by
    simp only [Clock.running, hr, hv, hh, ha, ne_eq, not_false_eq_true, decide_true, Bool.not_false, Bool.and_self]
  unfold State.tick
  rw [if_pos hruns, Clock.advanceTo, decide_eq_decide.2 hangle]

theorem tick_standing {s : State} (h : s.pins.rstn = false ∨ s.clock.valid = false ∨ s.clock.hold = true
    ∨ s.clock.angle = 4095) : s.tick = s := by
  unfold State.tick
  rw [if_neg]
  simp only [Bool.and_eq_true, decide_eq_true_eq, Clock.running, Bool.not_eq_true']
  rintro ⟨⟨hr, hv, hh⟩, ha⟩
  rcases h with h | h | h | h <;> simp_all

theorem reached_iff (s : State) (t : Time) : s.reached t = true ↔ 0 ≤ timeDiff s.now t := by
  simp [State.reached, timeBefore]

/-- The clock events whose time is reached (R4). -/
theorem mem_reachedEvents (s : State) (e : Time × Instr) :
    e ∈ s.timeEvents.filter (fun e => s.reached e.1) ↔ ClockEvent s e.1 e.2 ∧ 0 ≤ timeDiff s.now e.1 := by
  rw [List.mem_filter, ← mem_timeEvents, reached_iff]

theorem dueEvent_earliest {s : State} (hr : s.pins.rstn = true) (h : ¬ SwapDue s) :
    s.dueEvent = (earliest (s.timeEvents.filter (fun e => s.reached e.1))).map Prod.snd := by
  have hswap : s.swapDue = false := by
    rw [Bool.eq_false_iff, ne_eq, swapDue_iff]
    exact h
  rw [State.dueEvent, hswap, hr]
  rfl

/-- Settles O2: the events are those of ClockEvent, and the one that is due is the earliest of the reached ones. -/
theorem idleStepTakesDueEventOrTicks : Obligations.IdleStepTakesDueEventOrTicks := by
  intro s
  refine ⟨fun hq => ⟨fun c hc => step_of_due hq hc, fun hc => ⟨fun ⟨hr, hv, hh, ha⟩ => ?_, fun h => ?_⟩⟩,
    fun hdue => ?_, fun hr hnot => ⟨fun c hc => ?_, fun ⟨t, c, hevent, hreached⟩ hnone => ?_⟩, fun hr => ?_⟩
  · rw [step_of_notDue hq hc, tick_running hr hv hh ha]
  · rw [step_of_notDue hq hc, tick_standing h]
  · simp [State.dueEvent, (swapDue_iff s).2 hdue]
  · rw [dueEvent_earliest hr hnot] at hc
    obtain ⟨e, hearliest, rfl⟩ := Option.map_eq_some_iff.1 hc
    have hmem := (mem_reachedEvents s e).1 (earliest_mem hearliest)
    have hleast := earliest_least hearliest fun x hx => ((mem_reachedEvents s x).1 hx).2
    exact ⟨e.1, hmem.1, hmem.2, fun t' d hd hreached => hleast (t', d) ((mem_reachedEvents s (t', d)).2 ⟨hd, hreached⟩)⟩
  · rw [dueEvent_earliest hr hnot, Option.map_eq_none_iff, earliest_eq_none_iff] at hnone
    have hmem := (mem_reachedEvents s (t, c)).2 ⟨hevent, hreached⟩
    rw [hnone] at hmem
    exact List.not_mem_nil hmem
  · have hswap : s.swapDue = false := by simp [State.swapDue, State.takesEvents, hr]
    simp [State.dueEvent, hswap, hr]

/-- Settles O32. -/
theorem powerOnGivesPowerOnValues : Obligations.PowerOnGivesPowerOnValues := fun _ _ => rfl

/-! ### Sample codes and configurations -/

/-- Settles O13: the floor of the division by 255. -/
theorem sampleCodeIsFlooredAndClipped : Obligations.SampleCodeIsFlooredAndClipped := by
  intro v sample
  generalize hnum : (sample : Int) * ((v.write : Int) + v.trim - (v.threshold : Int)) + 127 = num
  refine ⟨v.threshold + num / 255, by omega, by omega, ?_⟩
  have hcode : levelCode v sample = (if (v.threshold : Int) + num / 255 < 0 then 0
      else if 1023 < (v.threshold : Int) + num / 255 then 1023 else ((v.threshold : Int) + num / 255).toNat) := by
    rw [← hnum]
    rfl
  rw [hcode]
  split
  · omega
  · split
    · omega
    · omega

/-- CONFIGURE with RSTn high and a payload of its size (R166). -/
theorem exec_configure {s : State} (hr : s.pins.rstn = true) {p : List Byte} (hp : p.length = 19) :
    exec (.configure p) s = .next (
      if s.station ≠ .setup then Replied s 0x10 .wrongState []
      else match configurationOf p with
        | none => Replied s 0x10 .badArgument []
        | some c => if c.allowed then Replied { s with config := c } 0x10 .ok []
          else Replied s 0x10 .badArgument []) :=
  congrArg _ (request_handled s _ p 19 _ hr hp)

/-- Settles O14. -/
theorem configureReplacesConfiguration : Obligations.ConfigureReplacesConfiguration := by
  refine ⟨fun s c hr hfits => ⟨fun hset hin => ?_, fun hset hout => ?_, fun hset => ?_⟩, fun s p hr hp hside => ?_⟩
  · rw [exec_configure hr (configurationBytes_length c), configurationOf_bytes c hfits]
    simp [hset, (allowed_iff c).2 hin]
  · have hno : c.allowed = false := by rw [Bool.eq_false_iff, ne_eq, allowed_iff]; exact hout
    rw [exec_configure hr (configurationBytes_length c), configurationOf_bytes c hfits]
    simp [hset, hno]
  · rw [exec_configure hr (configurationBytes_length c), if_pos hset]
  · have hnone : configurationOf p = none := by
      have hcode : fenceSideOf (byteAt p 17) = none := by
        unfold fenceSideOf
        split <;> simp_all [byteAt]
      simp [configurationOf, hcode]
    rw [exec_configure hr hp, hnone]
    by_cases hset : s.station = .setup <;> simp [hset]

/-! ### START -/

theorem exec_start {s : State} (hr : s.pins.rstn = true) :
    exec (.start []) s = .next (
      if s.station ≠ .setup then Replied s 0x11 .wrongState []
      else if s.config.bTotal < 1 then Replied s 0x11 .badArgument []
      else if s.config.fence.side ≠ .none ∧ !fenceWidens s.restrictions.fence s.config.fence then
        Replied s 0x11 .badArgument []
      else
        let s1 := if s.config.fence.side = .none then s else s.widenFence s.config.fence
        Replied { s1 with station := .listen, peers := s1.peers.enterListen,
                          link := { s1.link with receiver := .waitingIdle } } 0x11 .ok []) :=
  congrArg _ (request_handled s _ [] 0 _ hr rfl)

/-- Without records a widened fence changes the fence alone (R59). -/
theorem widenFence_empty {s : State} (h : s.plans.records = []) (f : Fence) :
    s.widenFence f = { s with restrictions := { s.restrictions with fence := f } } := by
  simp [State.widenFence, h, fencedRecords, State.finishAll]

/-- Settles O15. -/
theorem startEntersListen : Obligations.StartEntersListen := by
  intro s hr hrec
  rw [exec_start hr]
  refine ⟨fun hset hb hf => ?_, fun hset hb => ?_, fun hset hside hnot => ?_, fun hset => ?_⟩
  · by_cases hside : s.config.fence.side = .none
    · simp [hset, hside, PeerBlock.enterListen, Nat.not_lt.2 hb]
    · have hw := (fenceWidens_iff _ _).2 (hf.resolve_left hside)
      simp [hset, hside, hw, widenFence_empty hrec, PeerBlock.enterListen, Nat.pos_iff_ne_zero.1 hb]
  · simp [hset, hb]
  · have hw : fenceWidens s.restrictions.fence s.config.fence = false := by
      rw [Bool.eq_false_iff, ne_eq, fenceWidens_iff]
      exact hnot
    simp [hset, hside, hw]
  · rw [if_pos hset]

end Sys2Proof.Machine
end

section
/-! PROOFS. The Profile Store at its requests: LOAD, DATA and the verdict of a load. -/

namespace Sys2Proof.Machine

/-! ### Two-byte fields -/

theorem byte_ofNat {n : Nat} (h : n < 256) : (BitVec.ofNat 8 n).toNat = n := by
  rw [BitVec.toNat_ofNat]
  omega

theorem byte2_value {n : Nat} (h : n < 65536) :
    (BitVec.ofNat 8 n).toNat + 256 * (BitVec.ofNat 8 (n / 256)).toNat = n := by
  rw [BitVec.toNat_ofNat, BitVec.toNat_ofNat]
  omega

/-! ### LOAD (R100, R101) -/

/-- Settles O16. -/
theorem loadErasesStandbyBank : Obligations.LoadErasesStandbyBank := by
  intro s n d p hr hn1 hn2 hd1 hd2 hp hst hwithdrawn hswap
  have hword : wordAt (byte2 n ++ byte1 d ++ byte1 p) 0 = n := byte2_value (by omega)
  have hd : byteAt (byte2 n ++ byte1 d ++ byte1 p) 2 = d := byte_ofNat (by omega)
  have hq : byteAt (byte2 n ++ byte1 d ++ byte1 p) 3 = p := byte_ofNat (by omega)
  have hset : s.setupOrActive = true := by simpa [State.setupOrActive] using hst
  have hpending : s.store.swapPending = false := by simpa [ProfileStore.swapPending] using hswap
  have hrange : ¬(n < 1 ∨ 2048 < n ∨ d < 1 ∨ 64 < d ∨ 16 < p) := by omega
  obtain ⟨h1, h2, h3, h4, h5⟩ := s.store.beginLoad_frame n d p
  refine ⟨Replied { s with store := s.store.beginLoad n d p } 0x20 .ok [], ?_, rfl, h1, h2, h3, h4, h5⟩
  refine congrArg _ ((request_handled s _ _ 4 _ hr rfl).trans ?_)
  simp only [hword, hd, hq, hset, hwithdrawn, hpending, hrange, Bool.not_true, Bool.false_eq_true, if_false]
  rfl

/-! ### DATA (R102 to R105), branch by branch -/

theorem exec_data_low {s : State} (hr : s.pins.rstn = false) (p : List Byte) (more : Bool) :
    exec (.data p more) s = .next s := by
  refine congrArg _ (if_pos ?_)
  simp [hr]

section
variable {s : State} (hr : s.pins.rstn = true) {p : List Byte} (hp : p.length ≤ 64) (more : Bool)
include hr hp

theorem data_handled : exec (.data p more) s = .next (
    if s.station = .halted then Replied s 0x21 .wrongState []
    else if s.restrictions.load then Replied s 0x21 .withdrawn []
    else match s.store.standbyBank.state, s.store.load with
      | .loading, some l => s.takeDataFrame p more l
      | _, _ => Replied s 0x21 .wrongState []) :=
  congrArg _ (request_handled s _ p (min p.length 64) _ hr (Nat.min_eq_left hp).symm)

theorem exec_data_halted (hst : s.station = .halted) :
    exec (.data p more) s = .next (Replied s 0x21 .wrongState []) :=
  (data_handled hr hp more).trans (congrArg _ (if_pos hst))

theorem exec_data_withdrawn (hst : s.station ≠ .halted) (hw : s.restrictions.load = true) :
    exec (.data p more) s = .next (Replied s 0x21 .withdrawn []) :=
  (data_handled hr hp more).trans (congrArg _ ((if_neg hst).trans (if_pos hw)))

theorem exec_data_open (hst : s.station ≠ .halted) (hw : s.restrictions.load = false) {l : Load}
    (hb : s.store.standbyBank.state = .loading) (hl : s.store.load = some l) :
    exec (.data p more) s = .next (s.takeDataFrame p more l) := by
  refine (data_handled hr hp more).trans (congrArg _ ((if_neg hst).trans ?_))
  simp [hw, hb, hl]

theorem exec_data_closed (hst : s.station ≠ .halted) (hw : s.restrictions.load = false)
    (hno : ∀ l, s.store.standbyBank.state = .loading → s.store.load ≠ some l) :
    exec (.data p more) s = .next (Replied s 0x21 .wrongState []) := by
  refine (data_handled hr hp more).trans (congrArg _ ((if_neg hst).trans ?_))
  rw [if_neg (by simp [hw])]
  split
  · rename_i l hb hl
    exact absurd hl (hno l hb)
  · rfl

end

theorem takeDataFrame_more (s : State) (p : List Byte) (l : Load) :
    s.takeDataFrame p true l = Replied { s with store := s.store.takeData l p } 0x21 .received [] := rfl

/-- The final frame ends the load of which its bytes are the last (R102, R105). -/
theorem takeDataFrame_final (s : State) (p : List Byte) (l : Load) :
    s.takeDataFrame p false l =
      State.answerVerdict
        { s with store := (s.store.takeData l p).endLoad (p.foldl takeByte (l, s.store.standbyBank)).1 }
        (p.foldl takeByte (l, s.store.standbyBank)).1.verdict := rfl

/-- DATA marked "more follows" while a load is open (R102). -/
theorem exec_data_more {s : State} (hr : s.pins.rstn = true) (hst : s.station ≠ .halted)
    (hw : s.restrictions.load = false) (hb : s.store.standbyBank.state = .loading) {l : Load}
    (hl : s.store.load = some l) {p : List Byte} (hp : p.length ≤ 64) :
    exec (.data p true) s = .next (Replied { s with store := s.store.takeData l p } 0x21 .received []) :=
  exec_data_open hr hp true hst hw hb hl

/-! ### The bytes of an item (R102 to R104) -/

theorem setStandby_self (p : ProfileStore) : p.setStandby p.standbyBank = p := by
  obtain ⟨a, b, active, last, load⟩ := p
  cases active <;> rfl

/-- The store where a frame changes the load record alone. -/
theorem takeData_of_bank {p : ProfileStore} {l l' : Load} {bytes : List Byte}
    (h : bytes.foldl takeByte (l, p.standbyBank) = (l', p.standbyBank)) :
    p.takeData l bytes = { p with load := some l' } := by
  simp only [ProfileStore.takeData, h, setStandby_self]

theorem firstFailure_eq (old : Option Nat) (failed : Bool) (i : Nat) :
    firstFailure old failed i = if old = none ∧ failed = true then some i else old := by
  unfold firstFailure
  cases old <;> cases failed <;> simp

/-- The byte that completes a descriptor (R102). -/
theorem takeByte_descriptorEnd {l : Load} {x : Byte} (hpos : l.received < 4 * l.d)
    (hlen : (l.item ++ [x]).length = 4) (b : Bank) :
    takeByte (l, b) x = takeDescriptor { l with received := min (l.received + 1) 65535 } b (l.received / 4)
      (l.item ++ [x]) :=
  (if_pos hpos).trans (if_pos hlen)

/-- The byte that completes a profile record (R102). -/
theorem takeByte_profileEnd {l : Load} {x : Byte} (h1 : ¬ l.received < 4 * l.d)
    (h2 : l.received < 4 * l.d + 14 * l.p) (hlen : (l.item ++ [x]).length = 14) (b : Bank) :
    takeByte (l, b) x = (takeProfile { l with received := min (l.received + 1) 65535 }
      ((l.received - 4 * l.d) / 14) (l.item ++ [x]), b) :=
  (if_neg h1).trans ((if_pos h2).trans (if_pos hlen))

/-- A byte within an item is kept (R102). -/
theorem takeByte_within {l : Load} {x : Byte} (h : l.received < 4 * l.d ∧ l.item.length < 3
    ∨ 4 * l.d ≤ l.received ∧ l.received < 4 * l.d + 14 * l.p ∧ l.item.length < 13) (b : Bank) :
    takeByte (l, b) x = ({ l with received := min (l.received + 1) 65535, item := l.item ++ [x] }, b) := by
  have hlen : (l.item ++ [x]).length = l.item.length + 1 := List.length_append
  rcases h with ⟨hpos, hitem⟩ | ⟨h1, h2, hitem⟩
  · have hfour : ¬ (l.item ++ [x]).length = 4 := by omega
    exact (if_pos hpos).trans (if_neg hfour)
  · have hfourteen : ¬ (l.item ++ [x]).length = 14 := by omega
    exact (if_neg (Nat.not_lt.2 h1)).trans ((if_pos h2).trans (if_neg hfourteen))

/-- A byte past the expected total is only counted (R102). -/
theorem takeByte_past {l : Load} {x : Byte} (h : 4 * l.d + 14 * l.p + l.n ≤ l.received) (b : Bank) :
    takeByte (l, b) x = ({ l with received := min (l.received + 1) 65535 }, b) := by
  have h1 : ¬ l.received < 4 * l.d := by omega
  have h2 : ¬ l.received < 4 * l.d + 14 * l.p := by omega
  exact (if_neg h1).trans ((if_neg h2).trans (if_neg (Nat.not_lt.2 h)))

/-- A byte that completes descriptor i (R104). -/
theorem takeByte_descriptor {l : Load} {x : Byte} {i first count : Nat} (hs : LoadSound l) (hi : i < l.d)
    (hpos : l.received = 4 * i + 3) (hf : first < 65536) (hc : count < 65536)
    (hitem : l.item ++ [x] = byte2 first ++ byte2 count) (b : Bank) :
    takeByte (l, b) x =
      ({ l with received := 4 * i + 4, item := [],
                badDescriptor := if l.badDescriptor = none ∧ (count = 0 ∨ l.n < first + count) then some i
                  else l.badDescriptor },
       { b with descriptors := b.descriptors.set i { first := first, count := count } }) := by
  have hfirst : wordAt (byte2 first ++ byte2 count) 0 = first := byte2_value hf
  have hcount : wordAt (byte2 first ++ byte2 count) 2 = count := byte2_value hc
  have hlen : (byte2 first ++ byte2 count).length = 4 := rfl
  have hindex : (4 * i + 3) / 4 = i := by omega
  have hpast : 4 * i + 3 < 4 * l.d := by omega
  have hnext : min (4 * i + 3 + 1) 65535 = 4 * i + 4 := by
    obtain ⟨_, _, _, hd, _, _⟩ := hs
    exact Nat.min_eq_left (by omega)
  have hfour : (l.item ++ [x]).length = 4 := by rw [hitem, hlen]
  rw [takeByte_descriptorEnd (by omega) hfour, hpos, hindex, hnext, hitem]
  simp only [takeDescriptor, descriptorOf, hfirst, hcount, firstFailure_eq, Bool.or_eq_true, decide_eq_true_eq]

theorem any_le_iff (d : Nat) (xs : List Nat) : xs.any (fun i => decide (d ≤ i)) = true ↔ ∃ i ∈ xs, d ≤ i := by
  simp

theorem referenceFails_iff (d : Nat) (p : Profile) :
    referenceFails d p = true ↔ ∃ i ∈ p.preheat ++ [p.write] ++ p.tail, d ≤ i := by
  simp only [referenceFails, Bool.or_eq_true, any_le_iff, decide_eq_true_eq, List.mem_append, List.mem_singleton,
    or_and_right, exists_or, exists_eq_left]

theorem limitsFail_iff (item : List Byte) : limitsFail item = true ↔
    preheatCount item < 1 ∨ 3 < preheatCount item ∨ 3 < tailCount item ∨ (profileOf item).lead < 16
    ∨ 2047 < (profileOf item).lead ∨ 1023 < (profileOf item).tailAllowance
    ∨ 3583 < (profileOf item).lead + (profileOf item).tailAllowance ∨ (profileOf item).level = 0 := by
  simp only [limitsFail, Bool.or_eq_true, decide_eq_true_eq, or_assoc]

/-- A byte that completes profile record j (R103, R104). -/
theorem takeByte_profile {l : Load} {x : Byte} {j : Nat} {item : List Byte} (hs : LoadSound l) (hj : j < l.p)
    (hpos : l.received = 4 * l.d + 14 * j + 13) (hitem : l.item ++ [x] = item) (hlen : item.length = 14)
    (b : Bank) : takeByte (l, b) x =
      (takeProfile { l with received := 4 * l.d + 14 * j + 14 } j item, b) := by
  have hindex : (4 * l.d + 14 * j + 13 - 4 * l.d) / 14 = j := by omega
  have hnext : min (4 * l.d + 14 * j + 13 + 1) 65535 = 4 * l.d + 14 * j + 14 := by
    obtain ⟨_, _, _, hd, hp, _⟩ := hs
    exact Nat.min_eq_left (by omega)
  have hfourteen : (l.item ++ [x]).length = 14 := by rw [hitem, hlen]
  rw [takeByte_profileEnd (by omega) (by omega) hfourteen, hpos, hindex, hnext, hitem]

/-- DATA with one byte that changes the load record alone (R102). -/
theorem exec_data_byte {s : State} (hr : s.pins.rstn = true) (hst : s.station ≠ .halted)
    (hw : s.restrictions.load = false) (hb : s.store.standbyBank.state = .loading) {l l' : Load}
    (hl : s.store.load = some l) {x : Byte} (h : takeByte (l, s.store.standbyBank) x = (l', s.store.standbyBank)) :
    exec (.data [x] true) s
      = .next (Replied { s with store := { s.store with load := some l' } } 0x21 .received []) := by
  rw [exec_data_more hr hst hw hb hl (p := [x]) (by simp), takeData_of_bank (l' := l')]
  exact h

/-- Bytes leave the bank LOADING (R102). -/
theorem takeByte_state (lb : Load × Bank) (x : Byte) : (takeByte lb x).2.state = lb.2.state := by
  unfold takeByte
  dsimp only
  split
  · split <;> rfl
  · split
    · split <;> rfl
    · split <;> rfl

theorem takeBytes_state (bytes : List Byte) (lb : Load × Bank) :
    (bytes.foldl takeByte lb).2.state = lb.2.state := by
  induction bytes generalizing lb with
  | nil => rfl
  | cons x xs ih => exact (ih _).trans (takeByte_state lb x)

/-- Bytes are taken one after another, however they are cut into frames (R102). -/
theorem takeData_append (s : ProfileStore) (l : Load) (p q : List Byte) :
    (s.takeData l p).takeData (p.foldl takeByte (l, s.standbyBank)).1 q = s.takeData l (p ++ q) := by
  obtain ⟨_, _, _, hbank, _⟩ := s.takeData_frame l p
  have hpair : ((p.foldl takeByte (l, s.standbyBank)).1, (s.takeData l p).standbyBank)
      = p.foldl takeByte (l, s.standbyBank) := by rw [hbank]
  simp only [ProfileStore.takeData, List.foldl_append] at hpair ⊢
  rw [hpair]
  simp only [ProfileStore.setStandby]
  cases s.active <;> rfl

/-! ### DATA against the state that a frame leaves -/

/-- What a DATA frame marked "more follows" leaves, and what the next one does there (R102): the same refusal, or
the bytes that go on. -/
theorem data_then_data {s u : State} {p q : List Byte} (hlen : p.length + q.length ≤ 64)
    (hu : exec (.data p true) s = .next u) (more : Bool) :
    exec (.data (p ++ q) more) s = exec (.data q more) u := by
  have hp : p.length ≤ 64 := by omega
  have hq : q.length ≤ 64 := by omega
  have hpq : (p ++ q).length ≤ 64 := by simpa using hlen
  by_cases hr : s.pins.rstn = true
  swap
  · rw [Bool.not_eq_true] at hr
    rw [exec_data_low hr] at hu ⊢
    cases hu
    rw [exec_data_low hr]
  by_cases hst : s.station = .halted
  · rw [exec_data_halted hr hp _ hst] at hu
    cases hu
    rw [exec_data_halted hr hpq _ hst]
    exact (exec_data_halted (s := Replied s 0x21 .wrongState []) hr hq _ hst).symm
  by_cases hw : s.restrictions.load = true
  · rw [exec_data_withdrawn hr hp _ hst hw] at hu
    cases hu
    rw [exec_data_withdrawn hr hpq _ hst hw]
    exact (exec_data_withdrawn (s := Replied s 0x21 .withdrawn []) hr hq _ hst hw).symm
  rw [Bool.not_eq_true] at hw
  by_cases hopen : ∃ l, s.store.standbyBank.state = .loading ∧ s.store.load = some l
  · obtain ⟨l, hb, hl⟩ := hopen
    rw [exec_data_open hr hp _ hst hw hb hl, takeDataFrame_more] at hu
    cases hu
    obtain ⟨_, _, _, hbank, hload⟩ := s.store.takeData_frame l p
    have hb' : (s.store.takeData l p).standbyBank.state = .loading := by rw [hbank, takeBytes_state, hb]
    have happ := takeData_append s.store l p q
    have hfold : q.foldl takeByte ((p.foldl takeByte (l, s.store.standbyBank)).1, (s.store.takeData l p).standbyBank)
        = (p ++ q).foldl takeByte (l, s.store.standbyBank) := by rw [List.foldl_append, hbank]
    rw [exec_data_open hr hpq _ hst hw hb hl,
      exec_data_open (s := Replied { s with store := s.store.takeData l p } 0x21 .received []) hr hq _ hst hw hb' hload]
    cases more with
    | true =>
      rw [takeDataFrame_more, takeDataFrame_more]
      simp only [Replied, happ]
    | false =>
      rw [takeDataFrame_final, takeDataFrame_final]
      simp only [Replied, happ, hfold]
      rfl
  · have hno : ∀ l, s.store.standbyBank.state = .loading → s.store.load ≠ some l := fun l hb hl => hopen ⟨l, hb, hl⟩
    rw [exec_data_closed hr hp _ hst hw hno] at hu
    cases hu
    rw [exec_data_closed hr hpq _ hst hw hno]
    exact (exec_data_closed (s := Replied s 0x21 .wrongState []) hr hq _ hst hw hno).symm

/-- Settles O17: the sample bytes at once, the item bytes one by one. -/
theorem dataStoresItems : Obligations.DataStoresItems := by
  refine ⟨fun s p l hr hst hw hb hl hs hbank hp h1 h2 => ?_,
    fun s l x i first count hr hst hw hb hl hs hi hpos hf hc hitem => ?_,
    fun s l x j v zone pre tail item at' prof hr hst hw hb hl hs hj hpos hitem hlen hat hzone hpre htail hv hprof => ?_,
    fun s l x hr hst hw hb hl hs => ⟨fun h => ?_, fun h => ?_⟩,
    fun s u p q hlen hu => data_then_data hlen hu true⟩
  · obtain ⟨m, hfold, _, hread⟩ := takeByte_samples l s.store.standbyBank p hs hbank.1 h1 h2
    obtain ⟨f1, f2, f3, f4, f5⟩ := s.store.takeData_frame l p
    rw [hfold] at f4 f5
    refine ⟨_, exec_data_more hr hst hw hb hl hp, rfl, f1, f2, f3, f5, ?_, fun a => ?_⟩
    · rw [Replied, f4]
    · rw [Replied, f4]
      exact hread a
  · have htaken := takeByte_descriptor hs hi hpos hf hc hitem s.store.standbyBank
    obtain ⟨f1, f2, f3, f4, f5⟩ := s.store.takeData_frame l [x]
    rw [List.foldl_cons, List.foldl_nil, htaken] at f4 f5
    exact ⟨_, exec_data_more hr hst hw hb hl (by simp), rfl, f4, f5, f1, f2, f3⟩
  · obtain rfl : at' = byteAt item := funext hat
    have hprofile : profileOf item = prof := by rw [hprof, hpre, htail, hv]; rfl
    have hzoneFails : ∀ seen : List Nat, (decide (15 < zone) || seen.contains zone) = true ↔ 15 < zone ∨ zone ∈ seen := by
      simp
    have hlimits : limitsFail item = true ↔ pre < 1 ∨ 3 < pre ∨ 3 < tail ∨ prof.lead < 16 ∨ 2047 < prof.lead
        ∨ 1023 < prof.tailAllowance ∨ 3583 < prof.lead + prof.tailAllowance ∨ prof.level = 0 := by
      have hpre' : pre = preheatCount item := hpre
      have htail' : tail = tailCount item := htail
      rw [hpre', htail', limitsFail_iff, hprofile]
    rw [exec_data_byte hr hst hw hb hl (takeByte_profile hs hj hpos hitem hlen _)]
    simp only [takeProfile, hprofile, ← hzone, firstFailure_eq, hzoneFails, hlimits, referenceFails_iff]
  · have hnext : min (l.received + 1) 65535 = l.received + 1 := by
      obtain ⟨_, _, _, hd, hp, _⟩ := hs
      exact Nat.min_eq_left (by omega)
    rw [exec_data_byte hr hst hw hb hl (takeByte_within h _), hnext]
  · exact exec_data_byte hr hst hw hb hl (takeByte_past h _)

end Sys2Proof.Machine
end

section
/-! PROOFS. The verdict of a load, SWAP and its resolution, SET-HEAD and READ-HEAD. -/

namespace Sys2Proof.Machine

/-! ### Requests handled -/

/-- A command that is a request, with RSTn high and a payload of its size (R164). -/
theorem request_answer {s : State} {a : Answer} {k : Byte} {p : List Byte} {n : Nat} {handle : State → State}
    (ha : a = .next (s.request k p n handle)) (hr : s.pins.rstn = true) (hp : p.length = n) :
    a = .next (handle s) := by
  rw [ha, request_handled s k p n handle hr hp]

theorem setupOrActive_iff (s : State) :
    s.setupOrActive = true ↔ s.station = .setup ∨ s.station = .active := by
  simp [State.setupOrActive]

theorem not_setupOrActive {s : State} (h : s.station = .setup ∨ s.station = .active) :
    ¬ (!s.setupOrActive) = true := by
  rw [(setupOrActive_iff s).2 h]
  exact Bool.false_ne_true

/-! ### The verdict of a load (R105) -/

/-- The verdict and its index, check by check (Table 6-8). -/
theorem verdict_cases (l : Load) :
    if l.received ≠ 4 * l.d + 14 * l.p + l.n then l.verdict.1 = 1 ∧ l.verdict.2 = 0
    else if l.badDescriptor ≠ none then l.verdict.1 = 2 ∧ l.badDescriptor = some l.verdict.2
    else if l.badReference ≠ none then l.verdict.1 = 3 ∧ l.badReference = some l.verdict.2
    else if l.badZone ≠ none then l.verdict.1 = 4 ∧ l.badZone = some l.verdict.2
    else if l.badLimits ≠ none then l.verdict.1 = 5 ∧ l.badLimits = some l.verdict.2
    else l.verdict.1 = 0 ∧ l.verdict.2 = 0 := by
  have hexpected : l.expected = 4 * l.d + 14 * l.p + l.n := rfl
  unfold Load.verdict
  rw [hexpected]
  by_cases hr : l.received ≠ 4 * l.d + 14 * l.p + l.n
  · simp only [if_pos hr, and_self]
  simp only [if_neg hr]
  cases l.badDescriptor with
  | some i => simp
  | none =>
    cases l.badReference with
    | some i => simp
    | none =>
      cases l.badZone with
      | some i => simp
      | none => cases l.badLimits <;> simp

theorem endLoad_frame (p : ProfileStore) (l : Load) :
    (p.endLoad l).active = p.active ∧ (p.endLoad l).activeBank = p.activeBank
    ∧ (p.endLoad l).lastSwap = p.lastSwap ∧ (p.endLoad l).load = none
    ∧ (p.endLoad l).standbyBank = if l.verdict.1 = 0 then readyBank l p.standbyBank else Bank.erased := by
  unfold ProfileStore.endLoad
  split
  · obtain ⟨h1, h2, h3, h4, _⟩ := p.setStandby_frame (readyBank l p.standbyBank)
    exact ⟨h3, h2, h4, rfl, h1⟩
  · obtain ⟨h1, h2, h3, h4, h5⟩ := p.dropLoad_frame
    exact ⟨h1, h2, h3, h5, h4⟩

/-- A frame without payload takes no byte. -/
theorem takeData_nil {p : ProfileStore} {l : Load} (hl : p.load = some l) : p.takeData l [] = p := by
  rw [takeData_of_bank (l' := l) rfl, ← hl]

/-- Settles O18: the verdict as `Load.verdict` gives it, and a payload taken first. -/
theorem finalDataGivesVerdict : Obligations.FinalDataGivesVerdict := by
  refine ⟨fun s l hr hst hw hb hl => ?_, fun s u p hp hu => ?_⟩
  · obtain ⟨h1, h2, h3, h4, h5⟩ := endLoad_frame s.store l
    have hexec : exec (.data [] false) s
        = .next (State.answerVerdict { s with store := s.store.endLoad l } l.verdict) := by
      rw [exec_data_open hr (by simp) false hst hw hb hl, takeDataFrame_final, takeData_nil hl]
      rfl
    exact ⟨_, l.verdict.1, l.verdict.2, hexec, verdict_cases l, rfl, h1, h2, h3, h4, h5⟩
  · have hcut := data_then_data (q := []) (by simpa using hp) hu false
    rwa [List.append_nil] at hcut

/-! ### SWAP (R107 to R111) -/

/-- The resolution of a swap that nothing blocks (R110). -/
theorem resolveSwap_done {p : ProfileStore} {records : List Record} (h : swapBlocker p.standbyBank records = none) :
    p.resolveSwap records = p.completeSwap := by
  simp [ProfileStore.resolveSwap, h]

/-- The resolution of a swap that a record blocks (R111). -/
theorem resolveSwap_refused {p : ProfileStore} {records : List Record} {r : Record}
    (h : swapBlocker p.standbyBank records = some r) :
    p.resolveSwap records
      = { p.setStandby { p.standbyBank with state := .ready } with lastSwap := .refused r.tag } := by
  simp [ProfileStore.resolveSwap, h]

theorem swapPending_iff (p : ProfileStore) : p.swapPending = true ↔ p.standbyBank.state = .swapPending := by
  simp [ProfileStore.swapPending]

theorem exec_swapResolution_due {s : State} (h : SwapDue s) :
    exec .swapResolution s = .next { s with store := s.store.resolveSwap s.plans.records } := by
  have hpending : s.store.swapPending = true := (swapPending_iff _).2 h.2.2.1
  refine congrArg Host.Outcome.next ((if_pos ((swapDue_iff s).2 h)).trans ?_)
  exact if_pos hpending

/-- A SWAP that is not refused (R107). -/
theorem exec_swap_ready {s : State} (hr : s.pins.rstn = true) (hst : s.station = .setup ∨ s.station = .active)
    (hw : s.restrictions.load = false) (hready : s.store.standbyBank.state = .ready) :
    exec (.swap []) s = .next (
      if s.station = .setup then Replied { s with store := s.store.completeSwap } 0x22 .ok []
      else
        let s1 : State :=
          { s with store := s.store.setStandby { s.store.standbyBank with state := .swapPending } }
        Replied (if s.seq.current.isNone then s1.resolvePendingSwap else s1) 0x22 .ok []) := by
  have hload : ¬ s.restrictions.load = true := by simp [hw]
  refine (request_answer rfl hr rfl).trans (congrArg _ ((if_neg (not_setupOrActive hst)).trans ?_))
  rw [if_neg hload, if_neg (not_not.2 hready)]
  rfl

theorem completeSwap_ready {p : ProfileStore} (h : p.standbyBank.state = .ready) :
    p.completeSwap.bankA = p.bankA ∧ p.completeSwap.bankB = p.bankB := by
  have hsame : ({ p.standbyBank with state := .ready } : Bank) = p.standbyBank := by rw [← h]
  rw [ProfileStore.completeSwap, hsame, setStandby_self]
  exact ⟨rfl, rfl⟩

/-- Settles O19: SWAP in SETUP and ACTIVE, and the resolution with and without a blocking record. -/
theorem swapExchangesWaitsOrIsRefused : Obligations.SwapExchangesWaitsOrIsRefused := by
  refine ⟨fun s hr hw hready => ⟨fun hset => ?_, fun hact hcur => ?_, fun hact hcur => ?_⟩,
    fun s hr hst hcur hpending => ⟨fun hall => ?_, fun pre r post hsplit hpre hlive hkind hfails => ?_⟩⟩
  · obtain ⟨f1, f2, _, _, f5⟩ := s.store.completeSwap_frame
    obtain ⟨hA, hB⟩ := completeSwap_ready hready
    refine ⟨Replied { s with store := s.store.completeSwap } 0x22 .ok [], ?_, rfl, f1, hA, hB, f2, f5⟩
    rw [exec_swap_ready hr (.inl hset) hw hready, if_pos hset]
  · obtain ⟨f1, f2, f3, f4, f5⟩ := s.store.setStandby_frame { s.store.standbyBank with state := .swapPending }
    have hne : s.station ≠ .setup := by simp [hact]
    have hsome : ¬ s.seq.current.isNone = true := by simpa [Option.isSome_iff_ne_none] using hcur
    refine ⟨Replied { s with store := s.store.setStandby { s.store.standbyBank with state := .swapPending } } 0x22 .ok [],
      ?_, rfl, f3, f2, f1, f4, f5⟩
    rw [exec_swap_ready hr (.inr hact) hw hready, if_neg hne]
    simp only [if_neg hsome]
  · let u : State := { s with store := s.store.setStandby { s.store.standbyBank with state := .swapPending } }
    obtain ⟨f1, f2, f3, f4, f5⟩ := s.store.setStandby_frame { s.store.standbyBank with state := .swapPending }
    have hne : s.station ≠ .setup := by simp [hact]
    have hpending : u.store.standbyBank.state = .swapPending := by rw [f1]
    have hdue : SwapDue u := ⟨hr, by simp [u, hact], hpending, hcur⟩
    refine ⟨u, u.resolvePendingSwap, rfl, f3, f2, f1, f4, f5, ?_, ?_⟩
    · rw [exec_swapResolution_due hdue, State.resolvePendingSwap, if_pos ((swapPending_iff _).2 hpending)]
    · rw [exec_swap_ready hr (.inr hact) hw hready, if_neg hne]
      simp only [hcur, Option.isNone_none, if_true]
      rfl
  · obtain ⟨f1, f2, f3, f4, f5⟩ := s.store.completeSwap_frame
    have hnone := swapBlocker_none s.store.standbyBank s.plans.records hall
    refine ⟨_, exec_swapResolution_due ⟨hr, hst, hpending, hcur⟩, rfl, ?_⟩
    rw [resolveSwap_done hnone]
    exact ⟨f1, f3, f4, f2, f5⟩
  · have hsome := swapBlocker_some s.store.standbyBank pre post r hpre hlive hkind hfails
    rw [← hsplit] at hsome
    obtain ⟨f1, f2, f3, f4, f5⟩ := s.store.setStandby_frame { s.store.standbyBank with state := .ready }
    refine ⟨_, exec_swapResolution_due ⟨hr, hst, hpending, hcur⟩, rfl, ?_⟩
    rw [resolveSwap_refused hsome]
    exact ⟨f3, f2, f1, rfl, f5⟩

/-! ### SET-HEAD and READ-HEAD (R117, R119) -/

/-- SET-HEAD with its checks in order (R117). -/
theorem exec_setHead {s : State} (hr : s.pins.rstn = true) {h : Byte} {thr wc : Nat} (ht : thr < 65536)
    (hw : wc < 65536) (hst : s.station = .setup ∨ s.station = .active) :
    exec (.setHead ([h] ++ byte2 thr ++ byte2 wc)) s = .next (
      if s.config.headCount ≤ h.toNat ∨ 1023 < thr ∨ 1023 < wc then Replied s 0x30 .badArgument []
      else if wc ≤ thr then Replied s 0x30 .badArgument []
      else if s.station = .active ∧ s.plans.records.any (fun r => r.live && decide (r.head = h.toNat)) then
        Replied s 0x30 .busy []
      else Replied (s.setHeadRecord h.toNat
        { state := .valid, threshold := thr, write := wc, trim := 0, source := .set, stamp := none }) 0x30 .ok []) := by
  have hthr : wordAt ([h] ++ byte2 thr ++ byte2 wc) 1 = thr := byte2_value ht
  have hwc : wordAt ([h] ++ byte2 thr ++ byte2 wc) 3 = wc := byte2_value hw
  refine (request_answer rfl hr rfl).trans (congrArg _ ((if_neg (not_setupOrActive hst)).trans ?_))
  rw [hthr, hwc]
  rfl

/-- The trim byte is two's complement (R178). -/
theorem trimByte_eq {t : Int} (h1 : -31 ≤ t) (h2 : t ≤ 31) :
    trimByte t = [if 0 ≤ t then BitVec.ofNat 8 t.toNat else BitVec.ofNat 8 (256 + t).toNat] := by
  unfold trimByte
  congr 1
  apply BitVec.eq_of_toNat_eq
  split <;> simp only [BitVec.toNat_ofInt, BitVec.toNat_ofNat] <;> omega

/-- The 12 bytes of a head record (Table 7-3). -/
theorem headBytes_eq (h : Byte) {r : HeadRecord} (h1 : -31 ≤ r.trim) (h2 : r.trim ≤ 31) :
    headBytes h.toNat r =
      [h, (match r.state with | .uncal => 0 | .valid => 1 | .suspect => 2),
        BitVec.ofNat 8 (r.threshold % 256), BitVec.ofNat 8 (r.threshold / 256),
        BitVec.ofNat 8 (r.write % 256), BitVec.ofNat 8 (r.write / 256),
        (if 0 ≤ r.trim then BitVec.ofNat 8 r.trim.toNat else BitVec.ofNat 8 (256 + r.trim).toNat),
        (match r.source with | .set => 0 | .cal => 1),
        (if r.stamp = none then 0 else 1),
        BitVec.ofNat 8 ((r.stamp.getD 0).toNat % 256),
        BitVec.ofNat 8 ((r.stamp.getD 0).toNat / 256 % 256),
        BitVec.ofNat 8 ((r.stamp.getD 0).toNat / 65536)] := by
  have hlow : ∀ n : Nat, BitVec.ofNat 8 (n % 256) = BitVec.ofNat 8 n := fun n => by
    apply BitVec.eq_of_toNat_eq
    simp
  have hhead : BitVec.ofNat 8 h.toNat = h := by simp
  have hstate : BitVec.ofNat 8 (headStateCode r.state)
      = (match r.state with | .uncal => 0 | .valid => 1 | .suspect => 2) := by cases r.state <;> rfl
  have hsource : BitVec.ofNat 8 (headSourceCode r.source) = (match r.source with | .set => 0 | .cal => 1) := by
    cases r.source <;> rfl
  have hflag : flagByte r.stamp.isSome = [if r.stamp = none then 0 else 1] := by
    cases r.stamp <;> rfl
  simp only [headBytes, trimByte_eq h1 h2, hflag, optTimeBytes, timeBytes, byte3, byte2, byte1, hlow, hhead, hstate,
    hsource, List.cons_append, List.nil_append]

/-- Settles O20. -/
theorem setHeadAndReadHead : Obligations.SetHeadAndReadHead := by
  refine ⟨fun s h thr wc hr hh ht hw => ⟨fun hlt hmax hst => ?_, fun hlt hmax hst hlive => ?_, fun hbad hst => ?_⟩,
    fun s h r hr => ⟨fun hh hrec h1 h2 _ _ => ?_, fun hh => ?_⟩⟩
  · have hset : s.station = .setup ∨ s.station = .active := hst.imp_right And.left
    have hbusy : ¬ (s.station = .active ∧ s.plans.records.any (fun r => r.live && decide (r.head = h.toNat)) = true) := by
      rintro ⟨hact, hany⟩
      obtain ⟨r, hr, hhit⟩ := List.any_eq_true.1 hany
      simp only [Bool.and_eq_true, decide_eq_true_eq] at hhit
      rcases hst with hs | ⟨_, hfree⟩
      · simp [hs] at hact
      · exact hfree r hr hhit.1 hhit.2
    rw [exec_setHead hr ht hw hset, if_neg (by omega), if_neg (by omega), if_neg hbusy]
    rfl
  · obtain ⟨r, hr', hl, hhead⟩ := hlive
    rw [exec_setHead hr ht hw (.inr hst), if_neg (by omega), if_neg (by omega), if_pos]
    exact ⟨hst, List.any_eq_true.2 ⟨r, hr', by simp [hl, hhead]⟩⟩
  · rw [exec_setHead hr ht hw hst]
    split
    · rfl
    · rw [if_pos (by omega)]
  · have hread : s.headRecord h.toNat = r := by simp [State.headRecord, hrec]
    refine (request_answer rfl hr rfl).trans (congrArg _ ((if_neg (Nat.not_le.2 hh)).trans ?_))
    show Replied s 0x31 .ok (headBytes h.toNat (s.headRecord h.toNat)) = _
    rw [hread]
    exact congrArg (Replied s 0x31 .ok) (headBytes_eq h h1 h2)
  · exact (request_answer rfl hr rfl).trans (congrArg _ (if_pos hh))

end Sys2Proof.Machine
end

section
/-! PROOFS. POST and CALIBRATE: the checks of Tables 3-4 and 3-5 in order, and the record accepted. -/

namespace Sys2Proof.Machine

/-! ### The bytes of the requests -/

theorem tripleAt_byte3 {n : Nat} (h : n < 16777216) :
    (BitVec.ofNat 8 n).toNat + 256 * (BitVec.ofNat 8 (n / 256)).toNat + 65536 * (BitVec.ofNat 8 (n / 65536)).toNat
      = n := by
  simp only [BitVec.toNat_ofNat]
  omega

theorem postRequest_byte3 (tag head zone : Byte) {start length : Nat} (hs : start < 16777216) (hl : length < 65536) :
    postRequest ([tag, head, zone] ++ byte3 start ++ byte2 length)
      = { tag := tag, head := head.toNat, zone := zone.toNat, planStart := start, length := length } := by
  have h1 : tripleAt ([tag, head, zone] ++ byte3 start ++ byte2 length) 3 = start := tripleAt_byte3 hs
  have h2 : wordAt ([tag, head, zone] ++ byte3 start ++ byte2 length) 6 = length := byte2_value hl
  rw [postRequest, h1, h2]
  rfl

theorem calibrateRequest_byte3 (c : Configuration) (tag head : Byte) {start : Nat} (hs : start < 16777216) :
    calibrateRequest c ([tag, head] ++ byte3 start)
      = { tag := tag, head := head.toNat, zone := 0, planStart := start, length := c.calLength } := by
  have h1 : tripleAt ([tag, head] ++ byte3 start) 2 = start := tripleAt_byte3 hs
  rw [calibrateRequest, h1]
  rfl

/-! ### The checks of a window (R41, R42) -/

theorem ownOverlap_iff (q : PlanQueue) (r : Record) : ownOverlap q r = true ↔
    ∃ x ∈ q.records, x.live = true ∧ windowsOverlap r.windowStart r.windowEnd x.windowStart x.windowEnd = true := by
  simp [ownOverlap]

theorem headGapBroken_iff (gMin : Nat) (q : PlanQueue) (r : Record) : headGapBroken gMin q r = true ↔
    ∃ x ∈ q.records, x.live = true ∧ x.head = r.head
      ∧ windowGap r.windowStart r.windowEnd x.windowStart x.windowEnd < (gMin : Int) := by
  simp [headGapBroken, and_assoc]

/-- A window keeps R42 exactly where neither check on it fails. -/
theorem windowKept_iff (gMin : Nat) (q : PlanQueue) (r : Record) :
    WindowKept gMin q.records r.head r.windowStart r.windowEnd
      ↔ ownOverlap q r = false ∧ headGapBroken gMin q r = false := by
  have hgap : ∀ x : Record, ((timeBefore r.windowStart x.windowEnd = true →
        (gMin : Int) ≤ timeDiff x.windowStart r.windowEnd)
      ∧ (timeBefore r.windowStart x.windowEnd = false → (gMin : Int) ≤ timeDiff r.windowStart x.windowEnd))
      ↔ ¬ windowGap r.windowStart r.windowEnd x.windowStart x.windowEnd < (gMin : Int) := fun x => by
    unfold windowGap
    cases timeBefore r.windowStart x.windowEnd <;> simp
  rw [Bool.eq_false_iff, Bool.eq_false_iff, ne_eq, ne_eq, ownOverlap_iff, headGapBroken_iff]
  constructor
  · intro h
    refine ⟨fun ⟨x, hx, hl, hov⟩ => ?_, fun ⟨x, hx, hl, hhead, hlt⟩ => ?_⟩
    · rw [(h x hx hl).1] at hov
      cases hov
    · exact (hgap x).1 ((h x hx hl).2 hhead) hlt
  · intro ⟨hov, hg⟩ x hx hl
    refine ⟨Bool.eq_false_iff.2 fun h => hov ⟨x, hx, hl, h⟩, fun hhead => (hgap x).2 fun h => hg ⟨x, hx, hl, hhead, h⟩⟩

/-- The rows that the window checks of POST and CALIBRATE share, with their results. -/
def windowRows (now : Time) (gMin : Nat) (q : PlanQueue) (r : Record) : List (Prop × Result) :=
  [(timeDiff r.windowStart now < 512, .tooSoon), (8192 < timeDiff r.windowStart now, .tooFar),
   (∃ x ∈ q.records, x.live = true ∧ windowsOverlap r.windowStart r.windowEnd x.windowStart x.windowEnd = true,
     .ownOverlap),
   (¬ WindowKept gMin q.records r.head r.windowStart r.windowEnd, .headGap)]

/-- The window checks in order, their limits as numbers (Tables 3-4 and 3-5). -/
theorem windowVerdict_eq (now : Time) (gMin : Nat) (q : PlanQueue) (r : Record) : windowVerdict now gMin q r =
    if 3584 < r.span then .tooLong
    else if timeDiff r.windowStart now < 512 then .tooSoon
    else if 8192 < timeDiff r.windowStart now then .tooFar
    else if ownOverlap q r then .ownOverlap
    else if headGapBroken gMin q r then .headGap
    else .ok := rfl

theorem windowVerdict_tooLong {now : Time} {gMin : Nat} {q : PlanQueue} {r : Record} (h : 3584 < r.span) :
    windowVerdict now gMin q r = .tooLong := if_pos h

/-- The first of the window checks that fails gives the verdict, which refuses. -/
theorem windowVerdict_refused {now : Time} {gMin : Nat} {q : PlanQueue} {r : Record} {result : Result}
    (hspan : ¬ 3584 < r.span) (h : FirstOf (windowRows now gMin q r) result) :
    windowVerdict now gMin q r = result ∧ result ≠ .ok := by
  unfold windowRows at h
  rw [windowVerdict_eq, if_neg hspan]
  rcases (firstOf_cons _ _ _ _).1 h with ⟨hc, rfl⟩ | ⟨hc, h⟩
  · exact ⟨if_pos hc, by simp⟩
  rw [if_neg hc]
  rcases (firstOf_cons _ _ _ _).1 h with ⟨hc, rfl⟩ | ⟨hc, h⟩
  · exact ⟨if_pos hc, by simp⟩
  rw [if_neg hc]
  rcases (firstOf_cons _ _ _ _).1 h with ⟨hc, rfl⟩ | ⟨hov, h⟩
  · exact ⟨if_pos ((ownOverlap_iff q r).2 hc), by simp⟩
  rw [← ownOverlap_iff] at hov
  rw [if_neg hov]
  rcases (firstOf_cons _ _ _ _).1 h with ⟨hc, rfl⟩ | ⟨_, h⟩
  · rw [windowKept_iff] at hc
    refine ⟨if_pos ?_, by simp⟩
    by_contra hgap
    exact hc ⟨Bool.eq_false_iff.2 hov, Bool.eq_false_iff.2 hgap⟩
  · exact ((firstOf_nil _).1 h).elim

theorem windowVerdict_kept {now : Time} {gMin : Nat} {q : PlanQueue} {r : Record} (hspan : r.span ≤ 3584)
    (h1 : 512 ≤ timeDiff r.windowStart now) (h2 : timeDiff r.windowStart now ≤ 8192)
    (hk : WindowKept gMin q.records r.head r.windowStart r.windowEnd) : windowVerdict now gMin q r = .ok := by
  obtain ⟨hov, hgap⟩ := (windowKept_iff gMin q r).1 hk
  rw [windowVerdict_eq, if_neg (Nat.not_lt.2 hspan), if_neg (not_lt.2 h1), if_neg (not_lt.2 h2), hov, hgap]
  rfl

/-! ### The checks before the window -/

theorem badPost_iff (c : Configuration) (x : PostRequest) :
    (!headAndStartInRange c x || decide (15 < x.zone) || decide (x.length = 0)) = true
      ↔ c.headCount ≤ x.head ∨ 15 < x.zone ∨ 1048575 < x.planStart ∨ x.length = 0 := by
  simp only [headAndStartInRange, Bool.or_eq_true, Bool.not_eq_true', Bool.and_eq_false_iff, decide_eq_true_eq,
    decide_eq_false_iff_not, not_lt, not_le]
  tauto

theorem badCalibrate_iff (c : Configuration) (x : PostRequest) :
    (!headAndStartInRange c x) = true ↔ c.headCount ≤ x.head ∨ 1048575 < x.planStart := by
  simp only [headAndStartInRange, Bool.not_eq_true', Bool.and_eq_false_iff, decide_eq_false_iff_not, not_lt, not_le]

theorem anyTag_iff (records : List Record) (tag : Tag) :
    records.any (fun r => decide (r.tag = tag)) = true ↔ ∃ r ∈ records, r.tag = tag := by
  simp

theorem anyCal_iff (records : List Record) :
    records.any (fun r => r.live && decide (r.kind = .cal)) = true ↔ ∃ r ∈ records, r.live = true ∧ r.kind = .cal := by
  simp

/-- The checks of POST up to the zone's profile, passed (Table 3-4). -/
structure PostInOrder (s : State) (x : PostRequest) : Prop where
  active : s.station = .active
  range : ¬(s.config.headCount ≤ x.head ∨ 15 < x.zone ∨ 1048575 < x.planStart ∨ x.length = 0)
  room : ¬ 8 ≤ s.plans.records.length
  tag : ¬ ∃ r ∈ s.plans.records, r.tag = x.tag
  head : (s.headRecord x.head).state = .valid
  fence : ¬ Fenced s.restrictions.fence x.zone

/-- POST after the checks on its fields: the window of the zone's profile is kept (R40). -/
theorem postChecks_accepted {s : State} {x : PostRequest} (h : PostInOrder s x) {p : Profile}
    (hp : s.store.activeBank.profile x.zone = some p) (hlen : ¬ s.config.lMax < x.length)
    (hv : windowVerdict s.now s.config.gMin s.plans (newRecord s.plans .write x p.lead p.tailAllowance p.level)
      = .ok) :
    s.postChecks x = (.ok, some (newRecord s.plans .write x p.lead p.tailAllowance p.level)) := by
  have hfence := (covers_false_iff _ _).2 h.fence
  unfold State.postChecks
  rw [if_neg (not_not.2 h.active), if_neg (mt (badPost_iff _ _).1 h.range),
    if_neg (show ¬ Config.queueCapacity ≤ s.plans.records.length from h.room),
    if_neg (mt (anyTag_iff _ _).1 h.tag), if_neg (not_not.2 h.head), hfence, if_neg Bool.false_ne_true, hp]
  dsimp only
  rw [if_neg hlen, hv]

/-! ### Acceptance and refusal -/

theorem acceptOrRefuse_refused (s : State) (kind : Byte) (result : Result) :
    s.acceptOrRefuse kind (result, none) = Replied s kind result [] := rfl

theorem acceptOrRefuse_accepted (s : State) (kind : Byte) (r : Record) :
    s.acceptOrRefuse kind (.ok, some r) = Replied (s.accept r) kind .ok (acceptedBytes r) := rfl

theorem exec_post {s : State} (hr : s.pins.rstn = true) {p : List Byte} (hp : p.length = 8) :
    exec (.post p) s = .next (s.acceptOrRefuse 0x40 (s.postChecks (postRequest p))) :=
  request_answer rfl hr hp

theorem exec_calibrate {s : State} (hr : s.pins.rstn = true) {p : List Byte} (hp : p.length = 5) :
    exec (.calibrate p) s
      = .next (s.acceptOrRefuse 0x32 (s.calibrateChecks (calibrateRequest s.config p))) :=
  request_answer rfl hr hp

/-- The rows of Table 3-4 before the window. -/
def postRows (s : State) (x : PostRequest) (lead tail : Nat) : List (Prop × Result) :=
  [(s.station ≠ .active, .wrongState),
   (s.config.headCount ≤ x.head ∨ 15 < x.zone ∨ 1048575 < x.planStart ∨ x.length = 0, .badArgument),
   (8 ≤ s.plans.records.length, .queueFull),
   (∃ r ∈ s.plans.records, r.tag = x.tag, .tagInUse),
   ((s.headRecord x.head).state ≠ .valid, .headNotReady),
   (Fenced s.restrictions.fence x.zone, .fenced),
   (s.store.activeBank.profile x.zone = none, .noProfile),
   (s.config.lMax < x.length ∨ 3584 < lead + x.length + tail, .tooLong)]

/-- The first of the twelve checks of Table 3-4 that fails gives the result of a POST. -/
theorem postChecks_refused {s : State} {x : PostRequest} {lead tail : Nat} {result : Result}
    (hwindow : ∀ p, s.store.activeBank.profile x.zone = some p → lead = p.lead ∧ tail = p.tailAllowance)
    (h : FirstOf (postRows s x lead tail
      ++ windowRows s.now s.config.gMin s.plans (newRecord s.plans .write x lead tail 0)) result) :
    s.postChecks x = (result, none) := by
  unfold State.postChecks
  rcases (firstOf_cons _ _ _ _).1 h with ⟨hc, rfl⟩ | ⟨hactive, h⟩
  · rw [if_pos hc]
  rw [if_neg hactive]
  rcases (firstOf_cons _ _ _ _).1 h with ⟨hc, rfl⟩ | ⟨hrange, h⟩
  · rw [if_pos ((badPost_iff _ _).2 hc)]
  rw [if_neg (mt (badPost_iff _ _).1 hrange)]
  rcases (firstOf_cons _ _ _ _).1 h with ⟨hc, rfl⟩ | ⟨hroom, h⟩
  · exact if_pos hc
  rw [if_neg (show ¬ Config.queueCapacity ≤ s.plans.records.length from hroom)]
  rcases (firstOf_cons _ _ _ _).1 h with ⟨hc, rfl⟩ | ⟨htag, h⟩
  · rw [if_pos ((anyTag_iff _ _).2 hc)]
  rw [if_neg (mt (anyTag_iff _ _).1 htag)]
  rcases (firstOf_cons _ _ _ _).1 h with ⟨hc, rfl⟩ | ⟨hhead, h⟩
  · rw [if_pos hc]
  rw [if_neg hhead]
  rcases (firstOf_cons _ _ _ _).1 h with ⟨hc, rfl⟩ | ⟨hfence, h⟩
  · rw [if_pos ((covers_iff _ _).2 hc)]
  rw [if_neg (mt (covers_iff _ _).1 hfence)]
  rcases (firstOf_cons _ _ _ _).1 h with ⟨hc, rfl⟩ | ⟨hprofile, h⟩
  · rw [hc]
  obtain ⟨p, hp⟩ := Option.ne_none_iff_exists'.1 hprofile
  obtain ⟨rfl, rfl⟩ := hwindow p hp
  rw [hp]
  dsimp only
  by_cases hlen : s.config.lMax < x.length
  · rw [if_pos hlen]
    rcases (firstOf_cons _ _ _ _).1 h with ⟨_, rfl⟩ | ⟨hno, _⟩
    · rfl
    · exact absurd (.inl hlen) hno
  rw [if_neg hlen]
  rcases (firstOf_cons _ _ _ _).1 h with ⟨hc, rfl⟩ | ⟨hspan, h⟩
  · rw [windowVerdict_tooLong (r := newRecord s.plans .write x p.lead p.tailAllowance p.level) (hc.resolve_left hlen)]
  · obtain ⟨hv, hno⟩ := windowVerdict_refused (r := newRecord s.plans .write x p.lead p.tailAllowance p.level)
      (fun hc => hspan (.inr hc)) h
    rw [hv]
    cases result with
    | ok => exact absurd rfl hno
    | _ => rfl

/-- The rows of Table 3-5 before the window. -/
def calibrateRows (s : State) (x : PostRequest) : List (Prop × Result) :=
  [(s.station ≠ .active, .wrongState),
   (s.restrictions.calibrate = true, .withdrawn),
   (s.config.headCount ≤ x.head ∨ 1048575 < x.planStart, .badArgument),
   (8 ≤ s.plans.records.length, .queueFull),
   (∃ r ∈ s.plans.records, r.tag = x.tag, .tagInUse),
   (∃ r ∈ s.plans.records, r.live = true ∧ r.kind = .cal, .busy),
   (3584 < x.length, .tooLong)]

/-- The first of the eleven checks of Table 3-5 that fails gives the result of a CALIBRATE. -/
theorem calibrateChecks_refused {s : State} {x : PostRequest} {result : Result}
    (h : FirstOf (calibrateRows s x
      ++ windowRows s.now s.config.gMin s.plans (newRecord s.plans .cal x 0 0 s.config.calLevel)) result) :
    s.calibrateChecks x = (result, none) := by
  have hspan : (newRecord s.plans .cal x 0 0 s.config.calLevel).span = x.length := Nat.zero_add _
  unfold State.calibrateChecks
  rcases (firstOf_cons _ _ _ _).1 h with ⟨hc, rfl⟩ | ⟨hactive, h⟩
  · rw [if_pos hc]
  rw [if_neg hactive]
  rcases (firstOf_cons _ _ _ _).1 h with ⟨hc, rfl⟩ | ⟨hwithdrawn, h⟩
  · rw [if_pos hc]
  rw [if_neg hwithdrawn]
  rcases (firstOf_cons _ _ _ _).1 h with ⟨hc, rfl⟩ | ⟨hrange, h⟩
  · rw [if_pos ((badCalibrate_iff _ _).2 hc)]
  rw [if_neg (mt (badCalibrate_iff _ _).1 hrange)]
  rcases (firstOf_cons _ _ _ _).1 h with ⟨hc, rfl⟩ | ⟨hroom, h⟩
  · exact if_pos hc
  rw [if_neg (show ¬ Config.queueCapacity ≤ s.plans.records.length from hroom)]
  rcases (firstOf_cons _ _ _ _).1 h with ⟨hc, rfl⟩ | ⟨htag, h⟩
  · rw [if_pos ((anyTag_iff _ _).2 hc)]
  rw [if_neg (mt (anyTag_iff _ _).1 htag)]
  rcases (firstOf_cons _ _ _ _).1 h with ⟨hc, rfl⟩ | ⟨hcal, h⟩
  · rw [if_pos ((anyCal_iff _).2 hc)]
  rw [if_neg (mt (anyCal_iff _).1 hcal)]
  dsimp only
  rcases (firstOf_cons _ _ _ _).1 h with ⟨hc, rfl⟩ | ⟨hlen, h⟩
  · rw [windowVerdict_tooLong (by rw [hspan]; exact hc)]
  · obtain ⟨hv, hno⟩ := windowVerdict_refused (by rw [hspan]; exact hlen) h
    rw [hv]
    cases result with
    | ok => exact absurd rfl hno
    | _ => rfl

/-- Settles O22: the rows of the two tables are those of the checks. -/
theorem postRefusalsInOrder : Obligations.PostRefusalsInOrder := by
  refine ⟨fun s tag head zone start length lead tail ws we result hr hs hl hp hws hwe h => ?_,
    fun s tag head start ws we result hr hs hws hwe h => ?_⟩
  · rw [exec_post hr rfl, postRequest_byte3 tag head zone hs hl, postChecks_refused hp, acceptOrRefuse_refused]
    subst hws hwe
    exact h
  · have hnow : ws = timeMinus (BitVec.ofNat 20 start) 0 := by simp [hws, timeMinus]
    have hend : we = timePlus (BitVec.ofNat 20 start) (s.config.calLength + 0) := by rw [hwe, hws, Nat.add_zero]
    rw [exec_calibrate hr rfl, calibrateRequest_byte3 s.config tag head hs, calibrateChecks_refused,
      acceptOrRefuse_refused]
    subst hnow hend
    exact h

/-! ### Acceptance (R43, R44) -/

theorem start_fits (start : Time) : ¬ 1048575 < start.toNat := by
  have := start.isLt
  omega

/-- Settles O21: every check passes, and the record is the one the request makes. -/
theorem postAcceptsPlan : Obligations.PostAcceptsPlan := by
  intro s tag head zone start length claim p ws we hr hactive hhead hzone hl1 hl2 hl3 hroom htag hvalid hfence hp hspan
    hws hwe hlead hhorizon hkept hfree
  let x : PostRequest :=
    { tag := tag, head := head.toNat, zone := zone.toNat, planStart := start.toNat, length := length }
  have horder : PostInOrder s x := by
    refine ⟨hactive, ?_, Nat.not_le.2 hroom, fun ⟨r, hr, ht⟩ => htag r hr ht, hvalid, hfence⟩
    have hstart := start_fits start
    simp only [x]
    omega
  have hclaim := freeClaim_of_lowest hfree (lowestFree_lt hfree (by omega))
  have hrecord : newRecord s.plans .write x p.lead p.tailAllowance p.level
      = { tag := tag, kind := .write, head := head.toNat, zone := zone.toNat, planStart := start,
          length := length, lead := p.lead, tailAllowance := p.tailAllowance, level := p.level,
          windowStart := ws, windowEnd := we, claim := claim, sequence := s.plans.accepted,
          state := .queued, cancel := none, releasePending := false, outcome := none,
          finishStamp := none, hint := none, report := none, calResult := none,
          faultStamp := none } := by
    simp [newRecord, x, hclaim, hws, hwe]
  have hverdict := windowVerdict_kept (now := s.now) (gMin := s.config.gMin) (q := s.plans)
    (r := newRecord s.plans .write x p.lead p.tailAllowance p.level)
    hspan (by rw [hrecord]; exact hlead) (by rw [hrecord]; exact hhorizon) (by rw [hrecord]; exact hkept)
  rw [exec_post hr rfl, postRequest_bytes tag head zone start length hl3,
    postChecks_accepted horder hp (Nat.not_lt.2 hl2) hverdict, acceptOrRefuse_accepted, hrecord]
  rfl

/-- CALIBRATE after its other checks: the window decides (R44). -/
theorem calibrateChecks_accepted {s : State} {x : PostRequest} (hactive : s.station = .active)
    (hw : s.restrictions.calibrate = false) (hrange : ¬(s.config.headCount ≤ x.head ∨ 1048575 < x.planStart))
    (hroom : ¬ 8 ≤ s.plans.records.length) (htag : ¬ ∃ r ∈ s.plans.records, r.tag = x.tag)
    (hcal : ¬ ∃ r ∈ s.plans.records, r.live = true ∧ r.kind = .cal)
    (hv : windowVerdict s.now s.config.gMin s.plans (newRecord s.plans .cal x 0 0 s.config.calLevel) = .ok) :
    s.calibrateChecks x = (.ok, some (newRecord s.plans .cal x 0 0 s.config.calLevel)) := by
  unfold State.calibrateChecks
  rw [if_neg (not_not.2 hactive), hw, if_neg Bool.false_ne_true, if_neg (mt (badCalibrate_iff _ _).1 hrange),
    if_neg (show ¬ Config.queueCapacity ≤ s.plans.records.length from hroom), if_neg (mt (anyTag_iff _ _).1 htag),
    if_neg (mt (anyCal_iff _).1 hcal)]
  dsimp only
  rw [hv]

/-- Settles O23. -/
theorem calibrateAcceptsPlan : Obligations.CalibrateAcceptsPlan := by
  intro s tag head start claim we hr hactive hw hhead hroom hfresh hlen hwe hlead hhorizon hkept hfree
  let x : PostRequest :=
    { tag := tag, head := head.toNat, zone := 0, planStart := start.toNat, length := s.config.calLength }
  have hclaim := freeClaim_of_lowest hfree (lowestFree_lt hfree (by omega))
  have hrecord : newRecord s.plans .cal x 0 0 s.config.calLevel
      = { tag := tag, kind := .cal, head := head.toNat, zone := 0, planStart := start,
          length := s.config.calLength, lead := 0, tailAllowance := 0, level := s.config.calLevel,
          windowStart := start, windowEnd := we, claim := claim, sequence := s.plans.accepted,
          state := .queued, cancel := none, releasePending := false, outcome := none,
          finishStamp := none, hint := none, report := none, calResult := none,
          faultStamp := none } := by
    simp [newRecord, x, hclaim, hwe, timeMinus]
  have hspan : (newRecord s.plans .cal x 0 0 s.config.calLevel).span = s.config.calLength := Nat.zero_add _
  have hverdict := windowVerdict_kept (now := s.now) (gMin := s.config.gMin) (q := s.plans)
    (r := newRecord s.plans .cal x 0 0 s.config.calLevel) (by rw [hspan]; omega)
    (by rw [hrecord]; exact hlead) (by rw [hrecord]; exact hhorizon) (by rw [hrecord]; exact hkept)
  have hchecks := calibrateChecks_accepted (x := x) hactive hw (by have := start_fits start; simp only [x]; omega)
    (Nat.not_le.2 hroom) (fun ⟨r, hr, ht⟩ => (hfresh r hr).1 ht) (fun ⟨r, hr, h⟩ => (hfresh r hr).2 h) hverdict
  rw [exec_calibrate hr rfl, calibrateRequest_bytes, hchecks, acceptOrRefuse_accepted, hrecord]
  rfl

end Sys2Proof.Machine
end

section
/-! PROOFS. CANCEL, QUERY and COLLECT. -/

namespace Sys2Proof.Machine

/-! ### A record that finishes before it executes (R49) -/

theorem finish_queued {s : State} {r : Record} (hs : r.state = .queued) (o : PlanOutcome) :
    s.finish r { outcome := o } =
      { s with
        plans := { s.plans with
          records := s.plans.records.map (fun x =>
            if x.tag = r.tag then endedRecord x o s.now none none none false else x),
          finished := s.plans.finished ++ [r.tag] },
        link := Unsent s.link (.claim r.claim) } := by
  rw [← withdraw_eq]
  simp [State.finish, PlanQueue.finish, PlanQueue.update, Link.finishing, hs, finish_eq_endedRecord]

theorem finish_granted {s : State} {r : Record} (hs : r.state = .granted) (o : PlanOutcome) (x : Time) :
    s.finish r { outcome := o, release := some x } =
      { s with
        plans := { s.plans with
          records := s.plans.records.map (fun x =>
            if x.tag = r.tag then endedRecord x o s.now none none none true else x),
          finished := s.plans.finished ++ [r.tag] },
        link := { s.link with queue := s.link.queue ++ [.release r.claim x] } } := by
  simp [State.finish, PlanQueue.finish, PlanQueue.update, Link.finishing, hs, finish_eq_endedRecord, Link.enqueue]

/-! ### CANCEL (R52 to R58) -/

section
variable (s : State) {r : Record} (m : CancelMode)

theorem cancelRecord_queued (h : r.state = .queued) :
    s.cancelRecord r m = s.finish r { outcome := .cancelled } := by
  simp [State.cancelRecord, h]

theorem cancelRecord_claiming (h : r.state = .claiming) :
    s.cancelRecord r m = s.updateRecord r.tag (fun x => { x with cancel := some m }) := by
  simp [State.cancelRecord, h]

theorem cancelRecord_granted (h : r.state = .granted) :
    s.cancelRecord r m = s.finish r { outcome := .cancelled, release := some r.windowStart } := by
  simp [State.cancelRecord, h]

theorem cancelRecord_atOnce (h : r.state = .ready ∨ r.state = .paused .ready ∨ r.state = .calibrating
    ∨ (m = .immediate ∧ (r.state = .preheat ∨ r.state = .paused .preheat))) :
    s.cancelRecord r m = s.endPlan r .cancelled none := by
  rcases h with h | h | h | ⟨rfl, h | h⟩ <;> simp [State.cancelRecord, h]

theorem cancelRecord_writing (h : r.state = .writing ∨ r.state = .paused .writing) :
    s.cancelRecord r .immediate = s.assertWfault.endPlan r .cancelled none := by
  rcases h with h | h <;> simp [State.cancelRecord, h]

theorem cancelRecord_segmentEnd (h : r.state = .preheat ∨ r.state = .paused .preheat ∨ r.state = .writing
    ∨ r.state = .paused .writing) :
    s.cancelRecord r .segmentEnd = s.updateRecord r.tag (fun x => { x with cancel := some .segmentEnd }) := by
  rcases h with h | h | h | h <;> simp [State.cancelRecord, h]

end

/-- The mode of a CANCEL byte. -/
def modeOf (mode : Byte) : CancelMode := if mode = 0 then .immediate else .segmentEnd

section
variable {s : State} {tag mode : Byte} {r : Record} (hr : s.pins.rstn = true) (hst : s.station ≠ .halted)
  (hm : mode = 0 ∨ mode = 1) (hfind : s.plans.find tag = some r)
include hr hst hm hfind

/-- CANCEL of a record that is not too late (R52). -/
theorem exec_cancel (hlate : r.tooLate = false) :
    exec (.cancel [tag, mode]) s = .next (Replied (s.cancelRecord r (modeOf mode)) 0x41 .ok [tag]) := by
  have hmode : cancelModeOf (byteAt [tag, mode] 1) = some (modeOf mode) := cancelModeOf_eq mode hm
  have hfind' : s.plans.find (([tag, mode] : List Byte).getD 0 0) = some r := hfind
  refine (request_answer rfl hr rfl).trans (congrArg _ ((if_neg hst).trans ?_))
  rw [hmode]
  dsimp only
  rw [hfind']
  dsimp only
  rw [hlate]
  rfl

theorem exec_cancel_tooLate (hlate : r.tooLate = true) :
    exec (.cancel [tag, mode]) s = .next (Replied s 0x41 .tooLate []) := by
  have hmode : cancelModeOf (byteAt [tag, mode] 1) = some (modeOf mode) := cancelModeOf_eq mode hm
  have hfind' : s.plans.find (([tag, mode] : List Byte).getD 0 0) = some r := hfind
  refine (request_answer rfl hr rfl).trans (congrArg _ ((if_neg hst).trans ?_))
  rw [hmode]
  dsimp only
  rw [hfind']
  dsimp only
  rw [hlate]
  rfl

end

theorem tooLate_eq_false {r : Record} (h1 : r.state ≠ .tail) (h2 : r.state ≠ .finished) : r.tooLate = false := by
  simp [Record.tooLate, h1, h2]

/-- Settles O24. -/
theorem cancelBeforeExecution : Obligations.CancelBeforeExecution := by
  intro s tag mode r hr hst hm hfind
  obtain rfl := find_tag hfind
  refine ⟨fun hs => ?_, fun hs => ?_, fun hs => ?_⟩
  · rw [exec_cancel hr hst hm hfind (tooLate_eq_false (by simp [hs]) (by simp [hs])), cancelRecord_queued s _ hs,
      finish_queued hs]
  · rw [exec_cancel hr hst hm hfind (tooLate_eq_false (by simp [hs]) (by simp [hs])), cancelRecord_claiming s _ hs]
    rfl
  · rw [exec_cancel hr hst hm hfind (tooLate_eq_false (by simp [hs]) (by simp [hs])), cancelRecord_granted s _ hs,
      finish_granted hs]

/-- The end of the current plan by CANCEL, where its burst brings no correction. -/
theorem cancelEnds {s : State} {r : Record} {report : Option Report} (hs : r.state ≠ .queued)
    (h : NoCorrection s report) : PlanEnded s r .cancelled none report none (s.endPlan r .cancelled none) :=
  endPlan_planEnded s r .cancelled none report none hs h

/-- Settles O25. -/
theorem cancelDuringExecution : Obligations.CancelDuringExecution := by
  intro s tag mode r hr hst hm hfind
  obtain rfl := find_tag hfind
  have hexec : ¬(r.state = .tail ∨ r.state = .finished) →
      exec (.cancel [r.tag, mode]) s = .next (Replied (s.cancelRecord r (modeOf mode)) 0x41 .ok [r.tag]) := fun h =>
    exec_cancel hr hst hm hfind (tooLate_eq_false (fun hs => h (.inl hs)) (fun hs => h (.inr hs)))
  refine ⟨fun hs hburst => ⟨s.endPlan r .cancelled none, ?_, ?_⟩, fun hs hmode => ?_,
    fun b hs hmode hburst hcls => ⟨s.assertWfault.endPlan r .cancelled none, ?_, ?_⟩, fun hs => ?_⟩
  · refine cancelEnds ?_ (noCorrection_none hburst)
    rcases hs with hs | hs | hs | ⟨_, hs | hs⟩ <;> simp [hs]
  · rw [hexec (by rcases hs with hs | hs | hs | ⟨_, hs | hs⟩ <;> simp [hs]), cancelRecord_atOnce]
    exact hs.imp_right (Or.imp_right (Or.imp_right fun h => ⟨if_pos h.1, h.2⟩))
  · have hseg : modeOf mode = .segmentEnd := by rw [hmode]; rfl
    rw [hexec (by rcases hs with hs | hs | hs | hs <;> simp [hs]), hseg, cancelRecord_segmentEnd s hs]
    rfl
  · refine cancelEnds (by rcases hs with hs | hs <;> simp [hs]) ⟨?_, fun x hx => ?_⟩
    · simp [hburst]
    · cases hx
      exact hcls
  · have himm : modeOf mode = .immediate := if_pos hmode
    rw [hexec (by rcases hs with hs | hs <;> simp [hs]), himm, cancelRecord_writing s hs]
  · refine exec_cancel_tooLate hr hst hm hfind ?_
    rcases hs with hs | hs <;> simp [Record.tooLate, hs]

/-! ### QUERY and COLLECT (R60, R61) -/

theorem recordCode_byte (st : RecordState) : BitVec.ofNat 8 (recordCode st) = (match st with
    | .queued => 0 | .claiming => 1 | .granted => 2 | .preheat => 3 | .ready => 4
    | .writing => 5 | .paused .preheat => 6 | .paused .ready => 7 | .paused .writing => 8
    | .tail => 9 | .calibrating => 10 | .finished => 11) := by
  cases st with
  | paused m => cases m <;> rfl
  | _ => rfl

theorem kindCode_byte (k : PlanKind) : BitVec.ofNat 8 (kindCode k) = (match k with | .write => 0 | .cal => 1) := by
  cases k <;> rfl

theorem cancelCode_byte (c : Option CancelMode) : BitVec.ofNat 8 (cancelCode c)
    = (match c with | none => 0 | some .immediate => 1 | some .segmentEnd => 2) := by
  cases c with
  | none => rfl
  | some m => cases m <;> rfl

theorem outcomeCode_byte (o : Option PlanOutcome) : BitVec.ofNat 8 ((o.map outcomeCode).getD 0) = (match o with
    | none => (0 : Byte) | some .done => 0 | some .calFail => 1 | some .denied => 2 | some .late => 3
    | some .missed => 4 | some .coldWrite => 5 | some .overrun => 6 | some .servoClash => 7
    | some .rail => 8 | some .interrupted => 9 | some .cancelled => 10 | some .fenced => 11
    | some .headSuspect => 12 | some .spindle => 13) := by
  cases o with
  | none => rfl
  | some o => cases o <;> rfl

theorem flag_byte (b : Bool) : flagByte b = [if b then 1 else 0] := by cases b <;> rfl

theorem isSome_weight {α : Type} (o : Option α) (n : Nat) : (if o.isSome then n else 0) = if o = none then 0 else n := by
  cases o <;> simp

theorem reportBytes_length (m : Option Report) : (reportBytes m).length = 9 := by cases m <;> rfl

theorem calResultBytes_length (c : Option CalResult) : (calResultBytes c).length = 6 := by cases c <;> rfl

theorem timeBytes_length (t : Time) : (timeBytes t).length = 3 := rfl

/-- The bytes of a record up to its presence byte (Table 11-6). -/
def recordFront (r : Record) : List Byte :=
  [r.tag, BitVec.ofNat 8 (kindCode r.kind), BitVec.ofNat 8 r.head, BitVec.ofNat 8 r.zone] ++ timeBytes r.planStart
    ++ byte2 r.length ++ byte2 r.lead ++ byte2 r.tailAllowance ++ byte1 r.level ++ timeBytes r.windowStart
    ++ timeBytes r.windowEnd ++ byte1 r.claim ++ byte2 r.sequence.toNat
    ++ [BitVec.ofNat 8 (recordCode r.state), BitVec.ofNat 8 (cancelCode r.cancel)]
    ++ flagByte r.releasePending ++ presenceByte r

/-- The bytes of a record from its outcome on (Table 11-6). -/
def recordBack (r : Record) : List Byte :=
  [BitVec.ofNat 8 ((r.outcome.map outcomeCode).getD 0)] ++ timeBytes (r.finishStamp.getD 0)
    ++ timeBytes (r.hint.getD 0) ++ reportBytes r.report ++ calResultBytes r.calResult
    ++ timeBytes (r.faultStamp.getD 0)

theorem recordBytes_split (r : Record) : recordBytes r = recordFront r ++ recordBack r := by
  unfold recordBytes recordFront recordBack byte1 optTimeBytes
  simp only [List.append_assoc, List.cons_append, List.nil_append]

theorem byte1_length (n : Nat) : (byte1 n).length = 1 := rfl

theorem byte2_length (n : Nat) : (byte2 n).length = 2 := rfl

theorem recordFront_length (r : Record) : (recordFront r).length = 27 := by
  simp only [recordFront, List.length_append, timeBytes_length, byte2_length, byte1_length, flagByte, presenceByte,
    List.length_cons, List.length_nil]

theorem recordBack_length (r : Record) : (recordBack r).length = 25 := by
  simp only [recordBack, List.length_append, timeBytes_length, reportBytes_length, calResultBytes_length,
    List.length_singleton]

theorem recordBytes_length (r : Record) : (recordBytes r).length = 52 := by
  rw [recordBytes_split, List.length_append, recordFront_length, recordBack_length]

theorem recordBytes_take (r : Record) : (recordBytes r).take 27 = recordFront r := by
  rw [recordBytes_split]
  exact List.take_left' (recordFront_length r)

theorem recordBytes_drop (r : Record) : (recordBytes r).drop 27 = recordBack r := by
  rw [recordBytes_split]
  exact List.drop_left' (recordFront_length r)

theorem reportBytes_eq (m : Option Report) : reportBytes m = (match m with
    | none => List.replicate 9 0
    | some m => byte1 m.q0 ++ byte1 m.q1 ++ byte1 m.q2 ++ byte1 m.q3 ++ byte1 m.low
        ++ byte1 m.high ++ byte1 m.maximum ++ byte1 m.maxIndex
        ++ [(match m.cls with | .clean => 0 | .drift => 1 | .marginal => 2 | .loss => 3)]) := by
  cases m with
  | none => rfl
  | some m => cases hm : m.cls <;> simp only [reportBytes, hm] <;> rfl

theorem calResultBytes_eq (c : Option CalResult) : calResultBytes c = (match c with
    | none => List.replicate 6 0
    | some c => byte2 c.threshold ++ byte2 c.write
        ++ [(match c.cause with | .none => 0 | .monitor => 1 | .writeLimit => 2), BitVec.ofNat 8 c.monlo]) := by
  cases c with
  | none => rfl
  | some c => cases hc : c.cause <;> simp only [calResultBytes, hc] <;> rfl

theorem exec_query {s : State} (hr : s.pins.rstn = true) (hst : s.station ≠ .halted) {tag : Byte} {r : Record}
    (hfind : s.plans.find tag = some r) : exec (.query [tag]) s = .next (Replied s 0x42 .ok (recordBytes r)) := by
  have hfind' : s.plans.find (([tag] : List Byte).getD 0 0) = some r := hfind
  refine (request_answer rfl hr rfl).trans (congrArg _ ((if_neg hst).trans ?_))
  rw [hfind']
  rfl

theorem find_eq_none {q : PlanQueue} {tag : Tag} (h : ∀ r ∈ q.records, r.tag ≠ tag) : q.find tag = none := by
  simpa [PlanQueue.find] using h

theorem exec_query_unknown {s : State} (hr : s.pins.rstn = true) (hst : s.station ≠ .halted) {tag : Byte}
    (h : ∀ r ∈ s.plans.records, r.tag ≠ tag) : exec (.query [tag]) s = .next (Replied s 0x42 .noSuchTag []) := by
  have hfind : s.plans.find (([tag] : List Byte).getD 0 0) = none := find_eq_none h
  refine (request_answer rfl hr rfl).trans (congrArg _ ((if_neg hst).trans ?_))
  rw [hfind]
  rfl

theorem not_collectable {x : Record} (h : x.state ≠ .finished ∨ x.releasePending = true) :
    ¬ x.collectable = true := by
  rcases h with h | h <;> simp [Record.collectable, Record.live, h]

theorem firstCollectable_eq {q : PlanQueue} {pre post : List Tag} {tag : Tag} {r : Record}
    (hq : q.finished = pre ++ tag :: post)
    (hpre : ∀ u ∈ pre, ∀ x, q.find u = some x → x.state ≠ .finished ∨ x.releasePending = true)
    (hfind : q.find tag = some r) (hdone : r.state = .finished) (hclear : r.releasePending = false) :
    q.firstCollectable = some r := by
  have hnone : (pre.filterMap q.find).find? Record.collectable = none := by
    refine List.find?_eq_none.2 fun x hx => not_collectable ?_
    obtain ⟨u, hu, hux⟩ := List.mem_filterMap.1 hx
    exact hpre u hu x hux
  have hr : r.collectable = true := by simp [Record.collectable, Record.live, hdone, hclear]
  rw [PlanQueue.firstCollectable, hq, List.filterMap_append, List.filterMap_cons, hfind, List.find?_append, hnone]
  simp [hr]

theorem firstCollectable_none {q : PlanQueue}
    (h : ∀ u ∈ q.finished, ∀ x, q.find u = some x → x.state ≠ .finished ∨ x.releasePending = true) :
    q.firstCollectable = none := by
  refine List.find?_eq_none.2 fun x hx => not_collectable ?_
  obtain ⟨u, hu, hux⟩ := List.mem_filterMap.1 hx
  exact h u hu x hux

theorem remove_eq (q : PlanQueue) (tag : Tag) : q.remove tag =
    { q with records := q.records.filter (fun x => decide (x.tag ≠ tag)),
             finished := q.finished.filter (fun u => decide (u ≠ tag)) } := by
  have hne : ∀ u : Tag, (u != tag) = decide (u ≠ tag) := fun u => by
    by_cases h : u = tag <;> simp [h]
  simp only [PlanQueue.remove, hne]

theorem exec_collect {s : State} (hr : s.pins.rstn = true) (hst : s.station ≠ .halted) {r : Record}
    (h : s.plans.firstCollectable = some r) :
    exec (.collect []) s = .next (Replied { s with plans := s.plans.remove r.tag } 0x43 .ok (recordBytes r)) := by
  refine (request_answer rfl hr rfl).trans (congrArg _ ((if_neg hst).trans ?_))
  rw [h]
  rfl

theorem exec_collect_empty {s : State} (hr : s.pins.rstn = true) (hst : s.station ≠ .halted)
    (h : s.plans.firstCollectable = none) : exec (.collect []) s = .next (Replied s 0x43 .empty []) := by
  refine (request_answer rfl hr rfl).trans (congrArg _ ((if_neg hst).trans ?_))
  rw [h]
  rfl

/-- Settles O26. -/
theorem queryAndCollectReturnRecords : Obligations.QueryAndCollectReturnRecords := by
  refine ⟨fun s tag hr hst => ⟨fun r hfind => ⟨recordBytes r, exec_query hr hst hfind, recordBytes_length r, ?_, ?_⟩,
    fun h => exec_query_unknown hr hst h⟩, fun s hr hst => ⟨fun pre tag post r hq hpre hfind hdone hclear => ?_,
    fun h => exec_collect_empty hr hst (firstCollectable_none h)⟩⟩
  · rw [recordBytes_take, recordFront, recordCode_byte, kindCode_byte, cancelCode_byte, flag_byte, presenceByte]
    simp only [isSome_weight] <;> rfl
  · rw [recordBytes_drop, recordBack, outcomeCode_byte, reportBytes_eq, calResultBytes_eq] <;> rfl
  · rw [exec_collect hr hst (firstCollectable_eq hq hpre hfind hdone hclear), remove_eq, find_tag hfind]

end Sys2Proof.Machine
end

section
/-! PROOFS. STATUS and IDENTIFY. -/

namespace Sys2Proof.Machine

/-! ### Parts of a byte list -/

/-- The i-th chunk of a list made of chunks of one length. -/
theorem flatMap_chunk {α : Type} {f : α → List Byte} {k : Nat} (hf : ∀ x, (f x).length = k) (d : α) :
    ∀ (l : List α) (i : Nat), i < l.length → ((l.flatMap f).drop (k * i)).take k = f (l.getD i d)
  | [], i, hi => absurd hi (by simp)
  | x :: l, 0, _ => by
    rw [List.flatMap_cons, Nat.mul_zero, List.drop_zero, List.take_left' (hf x), List.getD_cons_zero]
  | x :: l, i + 1, hi => by
    have hdrop : k * (i + 1) = (f x).length + k * i := by rw [hf x, Nat.mul_add, Nat.mul_one, Nat.add_comm]
    rw [List.flatMap_cons, hdrop, ← List.drop_drop, List.drop_left, List.getD_cons_succ]
    exact flatMap_chunk hf d l i (by simpa using hi)

theorem flatMap_chunk_length {α : Type} {f : α → List Byte} {k : Nat} (hf : ∀ x, (f x).length = k) (l : List α) :
    (l.flatMap f).length = k * l.length := by
  induction l with
  | nil => simp
  | cons x l ih => rw [List.flatMap_cons, List.length_append, hf, ih, List.length_cons, Nat.mul_add, Nat.mul_one,
      Nat.add_comm]

theorem getD_append_at {α : Type} (xs ys : List α) (i : Nat) (d : α) :
    (xs ++ ys).getD (xs.length + i) d = ys.getD i d := by
  rw [List.getD_append_right _ _ _ _ (Nat.le_add_right _ _), Nat.add_sub_cancel_left]

theorem getD_of_chunk {l : List Byte} {a : Nat} {x : Byte} {xs : List Byte} (h : (l.drop a).take (xs.length + 1) = x :: xs)
    (d : Byte) : l.getD a d = x := by
  have hget := congrArg (fun l => l.getD 0 d) h
  simp only [List.getD_eq_getElem?_getD, List.getElem?_take, List.getElem?_drop, Nat.add_zero] at hget ⊢
  simpa using hget

/-- The bits of a byte given as a list (R180). -/
theorem bitsNat_testBit : ∀ (bs : List Bool) (i : Nat), (bitsNat bs).testBit i = bs.getD i false
  | [], i => by simp [bitsNat]
  | b :: bs, 0 => by cases b <;> simp [bitsNat, Nat.testBit_zero]
  | b :: bs, i + 1 => by
    have hdiv : ((if b then 1 else 0) + 2 * bitsNat bs) / 2 = bitsNat bs := by cases b <;> simp; omega
    rw [bitsNat, Nat.testBit_succ, hdiv, bitsNat_testBit bs i, List.getD_cons_succ]

theorem bitsNat_bit (bs : List Bool) {i : Nat} (hi : i < 8) :
    (BitVec.ofNat 8 (bitsNat bs)).getLsbD i = bs.getD i false := by
  rw [BitVec.getLsbD_ofNat, bitsNat_testBit]
  simp [hi]

/-! ### The codes of STATUS (Table 11-7) -/

theorem stationCode_byte (st : StationState) : BitVec.ofNat 8 (stationCode st)
    = (match st with | .setup => 0 | .listen => 1 | .joining => 2 | .active => 3 | .halted => 4) := by
  cases st <;> rfl

theorem syncCode_byte (y : SyncState) : BitVec.ofNat 8 (syncCode y)
    = (match y with | .none => 0 | .inSync => 1 | .desync => 2 | .resyncing => 3) := by
  cases y <;> rfl

theorem swapCode_byte (w : SwapOutcome) : BitVec.ofNat 8 (swapCode w)
    = (match w with | .none => 0 | .done => 1 | .refused _ => 2 | .cancelled => 3) := by
  cases w <;> rfl

theorem swapTag_byte (w : SwapOutcome) : BitVec.ofNat 8 (swapTag w)
    = (match w with | .refused t => t | _ => 0) := by
  cases w <;> simp [swapTag]

theorem peerCode_byte (p : PeerState) : BitVec.ofNat 8 (peerCode p)
    = (match p with | .absent => 0 | .joining => 1 | .active => 2 | .lost => 3 | .self => 4) := by
  cases p <;> rfl

theorem faultCode_byte (c : Option FaultCause) : BitVec.ofNat 8 (faultCode c) = (match c with
    | none => 0 | some .strayGate => 1 | some .clashSeen => 2 | some .spindleLost => 3
    | some .linkFault => 4 | some .idClash => 5) := by
  cases c with
  | none => rfl
  | some c => cases c <;> rfl

/-! ### STATUS (R171, R180) -/

/-- The bytes of the status before its Peer Table (Table 11-7). -/
def statusFront (s : State) : List Byte :=
  [BitVec.ofNat 8 (stationCode s.station), BitVec.ofNat 8 s.number.toNat, BitVec.ofNat 8 (syncCode s.peers.sync)]
  ++ flagByte s.peers.quiet.isSome
  ++ [BitVec.ofNat 8 ((s.peers.quiet.map BitVec.toNat).getD 0),
    BitVec.ofNat 8 (match s.store.active with | .a => 0 | .b => 1),
    BitVec.ofNat 8 (bankCode s.store.bankA.state), BitVec.ofNat 8 (bankCode s.store.bankB.state),
    BitVec.ofNat 8 (swapCode s.store.lastSwap), BitVec.ofNat 8 (swapTag s.store.lastSwap),
    BitVec.ofNat 8 s.plans.records.length, BitVec.ofNat 8 (s.plans.records.filter Record.live).length,
    BitVec.ofNat 8 s.link.queue.length,
    BitVec.ofNat 8 (s.table.filter (fun e => decide (e.origin = .admitted))).length,
    BitVec.ofNat 8 (s.table.filter (fun e => decide (e.origin = .announced))).length]

/-- The states of the peers (Table 11-7). -/
def peerStates (s : State) : List Byte := s.peers.table.flatMap (fun e => byte1 (peerCode e.state))

/-- Which peers have a last digest (Table 11-7). -/
def digestFlags (s : State) : Byte := BitVec.ofNat 8 (bitsNat (s.peers.table.map (fun e => e.digest.isSome)))

/-- The last digests of the peers (Table 11-7). -/
def peerDigests (s : State) : List Byte :=
  s.peers.table.flatMap (fun e => byte2 ((e.digest.map BitVec.toNat).getD 0))

/-- The bytes of the status after its Peer Table (Table 11-7). -/
def statusBack (s : State) : List Byte :=
  [BitVec.ofNat 8 s.clock.revolution.toNat] ++ byte2 s.clock.angle.toNat
  ++ [BitVec.ofNat 8 (bitsNat [s.clock.hold, s.clock.valid]),
    BitVec.ofNat 8 (bitsNat [s.restrictions.calibrate, s.restrictions.load, s.restrictions.trim]),
    BitVec.ofNat 8 (fenceCode s.restrictions.fence.side), BitVec.ofNat 8 s.restrictions.fence.extent,
    BitVec.ofNat 8 (faultCode s.fault.cause)] ++ timeBytes s.fault.stamp ++ flagByte s.fault.further

theorem statusBytes_split (s : State) : s.statusBytes =
    statusFront s ++ (peerStates s ++ ([digestFlags s] ++ (peerDigests s ++ statusBack s))) := by
  unfold State.statusBytes statusFront peerStates digestFlags peerDigests statusBack byte1
  simp only [List.append_assoc, List.cons_append, List.nil_append] <;> rfl

theorem statusFront_length (s : State) : (statusFront s).length = 15 := by
  simp only [statusFront, flagByte, byte1_length, List.length_append, List.length_cons, List.length_nil]

theorem statusBack_length (s : State) : (statusBack s).length = 12 := by
  simp only [statusBack, flagByte, byte1_length, byte2_length, timeBytes_length, List.length_append, List.length_cons,
    List.length_nil]

theorem peerStates_length {s : State} (h : s.peers.table.length = 8) : (peerStates s).length = 8 := by
  rw [peerStates, flatMap_chunk_length (k := 1) (fun _ => rfl), h]

theorem peerDigests_length {s : State} (h : s.peers.table.length = 8) : (peerDigests s).length = 16 := by
  rw [peerDigests, flatMap_chunk_length (k := 2) (fun _ => rfl), h]

theorem peerStates_getD {s : State} (h : s.peers.table.length = 8) (n : Station) :
    (peerStates s).getD n.toNat 0 = BitVec.ofNat 8 (peerCode (s.peers.entry n).state) := by
  have hn : n.toNat < s.peers.table.length := by have := n.isLt; omega
  have hchunk := flatMap_chunk (f := fun e : PeerEntry => byte1 (peerCode e.state)) (k := 1) (fun _ => rfl)
    PeerEntry.absentEntry s.peers.table n.toNat hn
  rw [Nat.one_mul] at hchunk
  exact getD_of_chunk (xs := []) hchunk 0

theorem peerDigests_getD {s : State} (h : s.peers.table.length = 8) (n : Station) :
    [(peerDigests s).getD (2 * n.toNat) 0, (peerDigests s).getD (2 * n.toNat + 1) 0]
      = byte2 (((s.peers.entry n).digest.map BitVec.toNat).getD 0) := by
  have hn : n.toNat < s.peers.table.length := by have := n.isLt; omega
  have hchunk := flatMap_chunk (f := fun e : PeerEntry => byte2 ((e.digest.map BitVec.toNat).getD 0)) (k := 2)
    (fun _ => rfl) PeerEntry.absentEntry s.peers.table n.toNat hn
  have hsecond := congrArg (List.drop 1) hchunk
  rw [List.drop_take, List.drop_drop] at hsecond
  rw [peerDigests, getD_of_chunk (xs := [_]) hchunk 0, getD_of_chunk (xs := []) hsecond 0]
  rfl

theorem digestFlags_bit {s : State} (h : s.peers.table.length = 8) (n : Station) :
    (digestFlags s).getLsbD n.toNat = (s.peers.entry n).digest.isSome := by
  have hn : n.toNat < s.peers.table.length := by have := n.isLt; omega
  rw [digestFlags, bitsNat_bit _ n.isLt, PeerBlock.entry]
  simp [List.getD_eq_getElem?_getD, hn]

theorem exec_status {s : State} (hr : s.pins.rstn = true) : exec (.status []) s
    = .next (Replied { s with fault := FaultRecord.clear } 0x50 .ok s.statusBytes) :=
  (request_answer rfl hr rfl).trans (congrArg _ (answer_eq _ _ _ _))

theorem statusFront_eq (s : State) : statusFront s =
    [(match s.station with | .setup => 0 | .listen => 1 | .joining => 2 | .active => 3 | .halted => 4),
      BitVec.ofNat 8 s.number.toNat,
      (match s.peers.sync with | .none => 0 | .inSync => 1 | .desync => 2 | .resyncing => 3),
      (if s.peers.quiet = none then 0 else 1), BitVec.ofNat 8 (s.peers.quiet.getD 0).toNat,
      (match s.store.active with | .a => 0 | .b => 1),
      BitVec.ofNat 8 (bankCode s.store.bankA.state), BitVec.ofNat 8 (bankCode s.store.bankB.state),
      (match s.store.lastSwap with | .none => 0 | .done => 1 | .refused _ => 2 | .cancelled => 3),
      (match s.store.lastSwap with | .refused t => t | _ => 0),
      BitVec.ofNat 8 s.plans.records.length,
      BitVec.ofNat 8 (s.plans.records.filter (fun r => decide (r.state ≠ .finished))).length,
      BitVec.ofNat 8 s.link.queue.length,
      BitVec.ofNat 8 (s.table.filter (fun e => decide (e.origin = .admitted))).length,
      BitVec.ofNat 8 (s.table.filter (fun e => decide (e.origin = .announced))).length] := by
  have hquiet : flagByte s.peers.quiet.isSome = [if s.peers.quiet = none then 0 else 1] := by
    cases s.peers.quiet <;> rfl
  have hnumber : BitVec.ofNat 8 ((s.peers.quiet.map BitVec.toNat).getD 0)
      = BitVec.ofNat 8 (s.peers.quiet.getD 0).toNat := by cases s.peers.quiet <;> rfl
  have hactive : BitVec.ofNat 8 (match s.store.active with | .a => 0 | .b => 1)
      = (match s.store.active with | .a => 0 | .b => 1) := by cases s.store.active <;> rfl
  rw [statusFront, stationCode_byte, syncCode_byte, hquiet, hnumber, hactive, swapCode_byte, swapTag_byte] <;> rfl

theorem statusBack_eq (s : State) : statusBack s =
    [s.clock.revolution] ++ byte2 s.clock.angle.toNat
      ++ [BitVec.ofNat 8 ((if s.clock.hold then 1 else 0) + (if s.clock.valid then 2 else 0)),
        BitVec.ofNat 8 ((if s.restrictions.calibrate then 1 else 0)
          + (if s.restrictions.load then 2 else 0) + (if s.restrictions.trim then 4 else 0)),
        (match s.restrictions.fence.side with | .none => 0 | .low => 1 | .high => 2),
        BitVec.ofNat 8 s.restrictions.fence.extent,
        (match s.fault.cause with
          | none => 0 | some .strayGate => 1 | some .clashSeen => 2 | some .spindleLost => 3
          | some .linkFault => 4 | some .idClash => 5)]
      ++ timeBytes s.fault.stamp ++ [if s.fault.further then 1 else 0] := by
  have hrevolution : BitVec.ofNat 8 s.clock.revolution.toNat = s.clock.revolution := by simp
  have hclock : bitsNat [s.clock.hold, s.clock.valid]
      = (if s.clock.hold then 1 else 0) + (if s.clock.valid then 2 else 0) := by
    cases s.clock.hold <;> cases s.clock.valid <;> rfl
  have hrestrictions : bitsNat [s.restrictions.calibrate, s.restrictions.load, s.restrictions.trim]
      = (if s.restrictions.calibrate then 1 else 0) + (if s.restrictions.load then 2 else 0)
        + (if s.restrictions.trim then 4 else 0) := by
    cases s.restrictions.calibrate <;> cases s.restrictions.load <;> cases s.restrictions.trim <;> rfl
  have hside : BitVec.ofNat 8 (fenceCode s.restrictions.fence.side)
      = (match s.restrictions.fence.side with | .none => 0 | .low => 1 | .high => 2) := by
    cases s.restrictions.fence.side <;> rfl
  rw [statusBack, hrevolution, hclock, hrestrictions, hside, faultCode_byte, flag_byte]

/-- Settles O27: the five parts of the status, each by its length. -/
theorem statusReportsAndClearsFault : Obligations.StatusReportsAndClearsFault := by
  intro s hr htable
  have hstates := peerStates_length htable
  have hdigests := peerDigests_length htable
  refine ⟨s.statusBytes, exec_status hr, ?_, ?_, fun n => ⟨?_, ?_, ?_⟩, ?_⟩
  · simp only [statusBytes_split, List.length_append, statusFront_length, statusBack_length, hstates, hdigests,
      List.length_singleton]
  · rw [statusBytes_split, List.take_left' (statusFront_length s), statusFront_eq] <;> rfl
  · have hat := getD_append_at (statusFront s) (peerStates s ++ ([digestFlags s] ++ (peerDigests s ++ statusBack s)))
      n.toNat 0
    rw [statusFront_length, ← statusBytes_split,
      List.getD_append (peerStates s) _ _ _ (by rw [hstates]; exact n.isLt), peerStates_getD htable n,
      peerCode_byte] at hat
    exact hat
  · have hflags : s.statusBytes.getD 23 0 = digestFlags s := by
      have hat := getD_append_at (statusFront s ++ peerStates s) ([digestFlags s] ++ (peerDigests s ++ statusBack s)) 0 0
      rw [List.length_append, statusFront_length, hstates, List.append_assoc, ← statusBytes_split] at hat
      exact hat
    rw [hflags, digestFlags_bit htable n]
  · have hat : ∀ i < 16, s.statusBytes.getD (24 + i) 0 = (peerDigests s).getD i 0 := fun i hi => by
      have hat := getD_append_at (statusFront s ++ peerStates s ++ [digestFlags s]) (peerDigests s ++ statusBack s) i 0
      rw [List.length_append, List.length_append, statusFront_length, hstates, List.append_assoc, List.append_assoc,
        ← statusBytes_split, List.getD_append _ _ _ _ (by omega)] at hat
      exact hat
    have hn := n.isLt
    have hnext : 25 + 2 * n.toNat = 24 + (2 * n.toNat + 1) := by omega
    have hdigest : ((s.peers.entry n).digest.map BitVec.toNat).getD 0 = ((s.peers.entry n).digest.getD 0).toNat := by
      cases (s.peers.entry n).digest <;> rfl
    rw [hnext, hat _ (by omega), hat _ (by omega), peerDigests_getD htable n, hdigest]
  · have hdrop : s.statusBytes.drop 40 = statusBack s := by
      rw [statusBytes_split, ← List.append_assoc, ← List.append_assoc, ← List.append_assoc]
      refine List.drop_left' ?_
      simp only [List.length_append, statusFront_length, hstates, hdigests, List.length_singleton]
    rw [hdrop, statusBack_eq] <;> rfl

/-! ### IDENTIFY (R172) -/

theorem byte4_length (n : Nat) : (byte4 n).length = 4 := rfl

theorem peerIdentity_length (e : PeerEntry) : (peerIdentity e).length = 5 := rfl

/-- The bytes of IDENTIFY before the Peer Table's. -/
def identityFront (s : State) : List Byte :=
  byte2 Config.deviceCode ++ [Config.revision] ++ byte4 Config.unitCode.toNat ++ byte1 s.number.toNat

theorem identityBytes_split (s : State) : s.identityBytes = identityFront s ++ s.peers.table.flatMap peerIdentity :=
  rfl

theorem identityFront_length (s : State) : (identityFront s).length = 8 := rfl

theorem peerIdentity_eq (e : PeerEntry) : peerIdentity e =
    (if e.state = .self then [1#8] ++ byte4 Config.unitCode.toNat
      else match e.unit with
        | none => [0#8, 0#8, 0#8, 0#8, 0#8]
        | some u => [1#8] ++ byte4 u.toNat) := by
  by_cases hself : e.state = .self
  · rw [if_pos hself, peerIdentity, if_pos hself]
    rfl
  · rw [if_neg hself, peerIdentity, if_neg hself]
    cases e.unit <;> rfl

theorem exec_identify {s : State} (hr : s.pins.rstn = true) :
    exec (.identify []) s = .next (Replied s 0x51 .ok s.identityBytes) :=
  (request_answer rfl hr rfl).trans (congrArg _ (answer_eq _ _ _ _))

/-- Settles O28: eight bytes, then a chunk of five for each station. -/
theorem identifyReportsIdentity : Obligations.IdentifyReportsIdentity := by
  intro s hr htable
  refine ⟨s.identityBytes, exec_identify hr, ?_, ?_, fun n => ?_⟩
  · rw [identityBytes_split, List.length_append, identityFront_length, flatMap_chunk_length peerIdentity_length, htable]
  · rw [identityBytes_split, List.take_left' (identityFront_length s)] <;> rfl
  · have hn : n.toNat < s.peers.table.length := by have := n.isLt; omega
    have hchunk := flatMap_chunk peerIdentity_length PeerEntry.absentEntry s.peers.table n.toNat hn
    rw [identityBytes_split, ← List.drop_drop, List.drop_left' (identityFront_length s), hchunk]
    exact peerIdentity_eq (s.peers.entry n)

end Sys2Proof.Machine
end

section
/-! PROOFS. WITHDRAW and RESTART. -/

namespace Sys2Proof.Machine

/-! ### The standby bank interrupted (R99, R113) -/

theorem interrupt_loading {p : ProfileStore} (h : p.standbyBank.state = .loading) : p.interrupt = p.dropLoad := by
  simp only [ProfileStore.interrupt, h]

theorem interrupt_pending {p : ProfileStore} (h : p.standbyBank.state = .swapPending) :
    p.interrupt = p.cancelSwap := by
  simp only [ProfileStore.interrupt, h]

theorem interrupt_resting {p : ProfileStore} (h : p.standbyBank.state = .empty ∨ p.standbyBank.state = .ready) :
    p.interrupt = p := by
  rcases h with h | h <;> simp only [ProfileStore.interrupt, h]

theorem interrupt_active (p : ProfileStore) :
    p.interrupt.active = p.active ∧ p.interrupt.activeBank = p.activeBank := by
  obtain ⟨hloadActive, hloadBank, -⟩ := ProfileStore.dropLoad_frame p
  obtain ⟨hswapActive, hswapBank, -⟩ := ProfileStore.cancelSwap_frame p
  cases h : p.standbyBank.state with
  | loading => rw [interrupt_loading h]; exact ⟨hloadActive, hloadBank⟩
  | swapPending => rw [interrupt_pending h]; exact ⟨hswapActive, hswapBank⟩
  | empty => rw [interrupt_resting (.inl h)]; exact ⟨rfl, rfl⟩
  | ready => rw [interrupt_resting (.inr h)]; exact ⟨rfl, rfl⟩

/-- A load interrupted leaves the standby bank erased. -/
theorem interrupt_load {p : ProfileStore} (h : p.standbyBank.state = .loading) :
    p.interrupt.standbyBank = ErasedBank ∧ p.interrupt.load = none ∧ p.interrupt.lastSwap = p.lastSwap := by
  obtain ⟨-, -, hlast, hbank, hload⟩ := ProfileStore.dropLoad_frame p
  rw [interrupt_loading h]
  exact ⟨hbank, hload, hlast⟩

theorem interrupt_swap {p : ProfileStore} (h : p.standbyBank.state = .swapPending) :
    p.interrupt.standbyBank = { p.standbyBank with state := .ready } ∧ p.interrupt.load = p.load
      ∧ p.interrupt.lastSwap = .cancelled := by
  obtain ⟨-, -, hlast, hbank, hload⟩ := ProfileStore.cancelSwap_frame p
  rw [interrupt_pending h]
  exact ⟨hbank, hload, hlast⟩

/-! ### WITHDRAW (R169) -/

theorem exec_withdraw_capabilities {s : State} (hr : s.pins.rstn = true) (hst : s.station ≠ .halted)
    (cal load trim : Bool) :
    exec (.withdraw (flagByte cal ++ flagByte load ++ flagByte trim ++ [0#8, 0#8])) s
      = .next (Replied (s.withdrawCapabilities cal load trim) 0x52 .ok [0#8]) := by
  refine (request_answer rfl hr rfl).trans (congrArg _ ((if_neg hst).trans ?_))
  cases cal <;> cases load <;> cases trim <;> rfl

/-- LOAD withdrawn where it is held interrupts the standby bank; a withdrawal before has left nothing to interrupt. -/
theorem withdrawCapabilities_store {s : State} (load : Bool) (cal trim : Bool)
    (h : s.restrictions.load = true → s.store.standbyBank.state = .empty ∨ s.store.standbyBank.state = .ready) :
    (s.withdrawCapabilities cal load trim).store = if load then s.store.interrupt else s.store := by
  unfold State.withdrawCapabilities
  cases hheld : s.restrictions.load with
  | false => rw [Bool.not_false, Bool.and_true]
  | true => rw [Bool.not_true, Bool.and_false, interrupt_resting (h hheld)]; cases load <;> rfl

theorem fenceSideOf_code (side : FenceSide) : fenceSideOf (fenceCode side) = some side := by
  cases side <;> rfl

theorem withdrawCapabilities_none (s : State) : s.withdrawCapabilities false false false = s := by
  simp only [State.withdrawCapabilities, Bool.or_false, Bool.false_and, Bool.false_eq_true, if_false]

theorem exec_withdraw_fence {s : State} (hr : s.pins.rstn = true) (hst : s.station ≠ .halted) {f : Fence}
    (hside : f.side ≠ .none) (hextent : f.extent ≤ 16) (hwide : Widening s.restrictions.fence f) :
    exec (.withdraw [0#8, 0#8, 0#8, BitVec.ofNat 8 (fenceCode f.side), BitVec.ofNat 8 f.extent]) s
      = .next (Replied (s.widenFence f) 0x52 .ok
          (byte1 (fencedRecords s.restrictions.fence f s.plans.records).length)) := by
  have hcode : (BitVec.ofNat 8 (fenceCode f.side)).toNat = fenceCode f.side := by cases f.side <;> rfl
  have hvalue : (BitVec.ofNat 8 f.extent).toNat = f.extent := by
    rw [BitVec.toNat_ofNat]; exact Nat.mod_eq_of_lt (by omega)
  refine (request_answer rfl hr rfl).trans (congrArg _ ((if_neg hst).trans ?_))
  simp only [byteAt, List.getD_cons_zero, List.getD_cons_succ, hcode, hvalue, fenceSideOf_code, BitVec.toNat_ofNat,
    Nat.zero_mod, Nat.zero_ne_one, decide_false, withdrawCapabilities_none, if_neg hside,
    (fenceWidens_iff s.restrictions.fence f).2 hwide, Bool.not_true, Bool.false_eq_true, if_false, answer_eq]
  exact if_neg (by omega)

theorem fencedRecords_eq {held f : Fence} {hit : Record → Bool} (h : ∀ r, hit r = true ↔ r.kind = .write ∧ Fenced f r.zone
    ∧ ¬ Fenced held r.zone ∧ (r.state = .queued ∨ r.state = .granted)) (records : List Record) :
    fencedRecords held f records = records.filter hit := by
  refine List.filter_congr fun r _ => ?_
  rw [Bool.eq_iff_iff, h r, ← covers_iff, ← covers_iff]
  simp only [Bool.and_eq_true, Bool.or_eq_true, decide_eq_true_eq, Bool.not_eq_true', Bool.not_eq_true, and_assoc]

/-- Settles O29. -/
theorem withdrawTakesCapabilitiesOrWidensFence : Obligations.WithdrawTakesCapabilitiesOrWidensFence := by
  refine ⟨fun s cal load trim hr hst hload => ?_, fun s f hit hr hst hq hside hextent hwide hhit => ?_⟩
  · have hstore := withdrawCapabilities_store (s := s) load cal trim hload
    refine ⟨_, exec_withdraw_capabilities hr hst cal load trim, rfl, ?_⟩
    simp only [Replied, hstore]
    cases load with
    | false => simp
    | true =>
      obtain ⟨hactive, hbank⟩ := interrupt_active s.store
      refine ⟨hactive, hbank, fun h => ?_, fun _ h => interrupt_load h, fun _ h => interrupt_swap h⟩
      exact interrupt_resting (h.resolve_left (by decide))
  · let u : State := { s with restrictions := { s.restrictions with fence := f } }
    have hended : s.widenFence f = GroupEnded u .fenced hit := by
      unfold State.widenFence
      rw [fencedRecords_eq hhit]
      exact finishAll_groupEnded u .fenced hit hq fun r h => ((hhit r).1 h).2.2.2
    rw [exec_withdraw_fence hr hst hside hextent hwide, fencedRecords_eq hhit, hended]
    rfl

/-! ### RESTART (R173) -/

theorem readsLine_iff (s : State) :
    s.readsLine = true ↔ s.station = .listen ∨ s.station = .joining ∨ s.station = .active := by
  simp only [State.readsLine, Bool.or_eq_true, decide_eq_true_eq, takesFrames_iff]

theorem exec_restart {s : State} (hr : s.pins.rstn = true) (h : s.readsLine = true) : exec (.restart []) s
    = .next (Replied s.restart 0x5F .ok (byte1 (s.plans.records.filter Record.live).length)) :=
  (request_answer rfl hr rfl).trans (congrArg _ ((if_pos h).trans (answer_eq _ _ _ _)))

theorem exec_restart_refused {s : State} (hr : s.pins.rstn = true) (h : s.readsLine = false) :
    exec (.restart []) s = .next (Replied s 0x5F .wrongState []) :=
  (request_answer rfl hr rfl).trans (congrArg _ ((if_neg (by simp [h])).trans (answer_eq _ _ _ _)))

/-- Turning the laser off writes the sequencer, the drive bus and the free value. -/
theorem setLaser_off_eq (s : State) : s.setLaser .off = { s with
    seq := { s.seq with laser := .off }, drive := (s.setLaser .off).drive, free := (s.setLaser .off).free } := by
  by_cases h : s.seq.laser = .off
  · have hseq : s.seq = { s.seq with laser := .off } := by rw [← h]
    rw [State.setLaser, if_pos h, ← hseq]
  · rw [State.setLaser, if_neg h]

/-- What RESTART leaves, the drive bus and the free value those of the laser turned off. -/
theorem restart_eq (s : State) : s.restart = { s with
    station := .listen, table := [], burst := none, search := none,
    plans := { records := [], finished := [], accepted := s.plans.accepted },
    seq := { current := none, profile := none, captured := none, position := none, firstStep := false,
             laser := .off, wfault := s.seq.wfault || s.pins.wgate, overrun := none },
    link := s.link.clear, peers := PeerBlock.cleared s.number, store := s.store.interrupt,
    drive := (s.setLaser .off).drive, free := (s.setLaser .off).free } := by
  unfold State.restart
  rw [setLaser_off_eq s]
  rfl

/-- Settles O30. -/
theorem restartClearsSchedule : Obligations.RestartClearsSchedule := by
  intro s hr
  refine ⟨fun h => ?_, fun h => exec_restart_refused hr ?_⟩
  · obtain ⟨hactive, hbank⟩ := interrupt_active s.store
    refine ⟨_, exec_restart hr ((readsLine_iff s).2 h), ?_, ?_⟩
    · simp only [Replied, restart_eq] <;> rfl
    · rw [restart_eq]
      exact ⟨setLaser_off_sent s, hactive, hbank, interrupt_resting, interrupt_load, interrupt_swap⟩
  · rw [Bool.eq_false_iff, ne_eq, readsLine_iff]
    rcases h with h | h <;> simp [h]

end Sys2Proof.Machine
end

section
/-! PROOFS. The requests that are refused. -/

namespace Sys2Proof.Machine

/-! ### Envelopes, kinds and lengths (R163, R164) -/

theorem exec_planPortFrameError {s : State} (hr : s.pins.rstn = true) : exec .planPortFrameError s = .next (Replied
    { s with store := if decide (s.store.standbyBank.state = .loading) && decide (s.station ≠ .halted) then s.store.dropLoad
                      else s.store } 0x00 .frameError []) := by
  have hlow : ¬ (!s.pins.rstn) = true := by simp [hr]
  exact congrArg _ ((if_neg hlow).trans (answer_eq _ _ _ _))

theorem exec_planPortFrameError_plain {s : State} (hr : s.pins.rstn = true)
    (h : s.store.standbyBank.state ≠ .loading ∨ s.station = .halted) :
    exec .planPortFrameError s = .next (Replied s 0x00 .frameError []) := by
  have hends : (decide (s.store.standbyBank.state = .loading) && decide (s.station ≠ .halted)) = false := by
    rcases h with h | h <;> simp [h]
  rw [exec_planPortFrameError hr, hends]
  rfl

theorem exec_planPortFrameError_loading {s : State} (hr : s.pins.rstn = true)
    (hload : s.store.standbyBank.state = .loading) (hst : s.station ≠ .halted) :
    exec .planPortFrameError s = .next (Replied { s with store := s.store.dropLoad } 0x00 .frameError []) := by
  have hends : (decide (s.store.standbyBank.state = .loading) && decide (s.station ≠ .halted)) = true := by
    simp [hload, hst]
  rw [exec_planPortFrameError hr, hends]
  rfl

theorem exec_unknownKind {s : State} (hr : s.pins.rstn = true) (kind : Byte) (p : List Byte) :
    exec (.unknownKind kind p) s = .next (Replied s kind .unknownKind []) := by
  have hlow : ¬ (!s.pins.rstn) = true := by simp [hr]
  exact congrArg _ ((if_neg hlow).trans (answer_eq _ _ _ _))

theorem answer_badLength {s : State} {a : Answer} {k : Byte} {p : List Byte} {n : Nat} {handle : State → State}
    (ha : a = .next (s.request k p n handle)) (hr : s.pins.rstn = true) (hp : p.length ≠ n) :
    a = .next (Replied s k .badLength []) := by
  rw [ha, request_badLength s k p n handle hr hp]

/-! ### Checks in order -/

/-- One row of a table of checks is one branch of the handler. -/
theorem refusal_of_firstOf {s : State} {kind : Byte} {c d : Prop} [Decidable d] {v w : Result}
    {rows : List (Prop × Result)} {y : State} (hc : c ↔ d) (h : FirstOf ((c, v) :: rows) w)
    (hy : FirstOf rows w → y = Replied s kind w []) : (if d then s.answer kind v else y) = Replied s kind w [] := by
  rcases (firstOf_cons c v w rows).1 h with ⟨hrow, rfl⟩ | ⟨hrow, hrest⟩
  · rw [if_pos (hc.1 hrow), answer_eq]
  · rw [if_neg fun hd => hrow (hc.2 hd), hy hrest]

theorem not_firstOf_nil {w : Result} {p : Prop} (h : FirstOf [] w) : p := ((firstOf_nil w).1 h).elim

theorem away_iff {s : State} {away : Prop} (h : away = ¬(s.station = .setup ∨ s.station = .active)) :
    away ↔ (!s.setupOrActive) = true := by
  rw [h, Bool.not_eq_true', ← Bool.not_eq_true, setupOrActive_iff]

section
variable {s : State} {result : Result} (hr : s.pins.rstn = true)
include hr

theorem exec_load_refused {away : Prop} (haway : away = ¬(s.station = .setup ∨ s.station = .active)) {n d p : Nat}
    (hn : n < 65536) (hd : d < 256) (hp : p < 256)
    (h : FirstOf [(away, Result.wrongState), (s.restrictions.load = true, .withdrawn),
      (n < 1 ∨ 2048 < n ∨ d < 1 ∨ 64 < d ∨ 16 < p, .badArgument),
      (s.store.standbyBank.state = .swapPending, .busy)] result) :
    exec (.load (byte2 n ++ byte1 d ++ byte1 p)) s = .next (Replied s 0x20 result []) := by
  have hvalues : wordAt (byte2 n ++ byte1 d ++ byte1 p) 0 = n ∧ byteAt (byte2 n ++ byte1 d ++ byte1 p) 2 = d
      ∧ byteAt (byte2 n ++ byte1 d ++ byte1 p) 3 = p :=
    ⟨byte2_value hn, byte_ofNat hd, byte_ofNat hp⟩
  obtain ⟨hword, hdescriptors, hprofiles⟩ := hvalues
  have hargument : (n < 1 ∨ 2048 < n ∨ d < 1 ∨ 64 < d ∨ 16 < p) ↔
      (wordAt (byte2 n ++ byte1 d ++ byte1 p) 0 < 1 ∨ 2048 < wordAt (byte2 n ++ byte1 d ++ byte1 p) 0
        ∨ byteAt (byte2 n ++ byte1 d ++ byte1 p) 2 < 1 ∨ 64 < byteAt (byte2 n ++ byte1 d ++ byte1 p) 2
        ∨ 16 < byteAt (byte2 n ++ byte1 d ++ byte1 p) 3) := by
    rw [hword, hdescriptors, hprofiles]
  refine (request_answer rfl hr rfl).trans (congrArg _ ?_)
  exact refusal_of_firstOf (away_iff haway) h fun h => refusal_of_firstOf Iff.rfl h fun h =>
    refusal_of_firstOf hargument h fun h => refusal_of_firstOf (swapPending_iff _).symm h not_firstOf_nil

theorem exec_data_refused {p : List Byte} {more : Bool} (hp : p.length ≤ 64)
    (h : FirstOf [(s.station = .halted, Result.wrongState), (s.restrictions.load = true, .withdrawn),
      (s.store.standbyBank.state ≠ .loading, .wrongState)] result) :
    exec (.data p more) s = .next (Replied s 0x21 result []) := by
  simp only [firstOf_cons, firstOf_nil, and_false, or_false] at h
  obtain ⟨hst, rfl⟩ | ⟨hst, ⟨hw, rfl⟩ | ⟨hw, hbank, rfl⟩⟩ := h
  · exact exec_data_halted hr hp more hst
  · exact exec_data_withdrawn hr hp more hst hw
  · exact exec_data_closed hr hp more hst (Bool.eq_false_iff.2 hw) fun l hb => absurd hb hbank

theorem exec_swap_refused {away : Prop} (haway : away = ¬(s.station = .setup ∨ s.station = .active))
    (h : FirstOf [(away, Result.wrongState), (s.restrictions.load = true, .withdrawn),
      (s.store.standbyBank.state ≠ .ready, .wrongState)] result) :
    exec (.swap []) s = .next (Replied s 0x22 result []) := by
  refine (request_answer rfl hr rfl).trans (congrArg _ ?_)
  exact refusal_of_firstOf (away_iff haway) h fun h => refusal_of_firstOf Iff.rfl h fun h =>
    refusal_of_firstOf Iff.rfl h not_firstOf_nil

theorem exec_setHead_refused {away : Prop} (haway : away = ¬(s.station = .setup ∨ s.station = .active)) {head : Byte}
    {thr wc : Nat} (ht : thr < 65536) (hw : wc < 65536)
    (h : FirstOf [(away, Result.wrongState),
      (s.config.headCount ≤ head.toNat ∨ 1023 < thr ∨ 1023 < wc, .badArgument), (wc ≤ thr, .badArgument),
      (s.station = .active ∧ ∃ r ∈ s.plans.records, r.live = true ∧ r.head = head.toNat, .busy)] result) :
    exec (.setHead ([head] ++ byte2 thr ++ byte2 wc)) s = .next (Replied s 0x30 result []) := by
  have hthr : wordAt ([head] ++ byte2 thr ++ byte2 wc) 1 = thr := byte2_value ht
  have hwc : wordAt ([head] ++ byte2 thr ++ byte2 wc) 3 = wc := byte2_value hw
  have hbusy : (s.station = .active ∧ ∃ r ∈ s.plans.records, r.live = true ∧ r.head = head.toNat)
      ↔ s.station = .active ∧ s.plans.records.any (fun r => r.live && decide (r.head = head.toNat)) = true := by
    simp only [List.any_eq_true, Bool.and_eq_true, decide_eq_true_eq]
  refine (request_answer rfl hr rfl).trans (congrArg _ ?_)
  rw [hthr, hwc]
  exact refusal_of_firstOf (away_iff haway) h fun h => refusal_of_firstOf Iff.rfl h fun h =>
    refusal_of_firstOf Iff.rfl h fun h => refusal_of_firstOf hbusy h not_firstOf_nil

theorem exec_cancel_mode {tag mode : Byte} (hst : s.station ≠ .halted) (hmode : 1 < mode.toNat) :
    exec (.cancel [tag, mode]) s = .next (Replied s 0x41 .badArgument []) := by
  have hnone : cancelModeOf (byteAt [tag, mode] 1) = none := by
    show cancelModeOf mode.toNat = none
    obtain ⟨n, hn⟩ : ∃ n, mode.toNat = n + 2 := ⟨mode.toNat - 2, by omega⟩
    rw [hn]
    rfl
  refine (request_answer rfl hr rfl).trans (congrArg _ ((if_neg hst).trans ?_))
  rw [hnone]
  rfl

theorem exec_cancel_unknown {tag mode : Byte} (hst : s.station ≠ .halted) (hmode : ¬ 1 < mode.toNat)
    (h : ∀ r ∈ s.plans.records, r.tag ≠ tag) :
    exec (.cancel [tag, mode]) s = .next (Replied s 0x41 .noSuchTag []) := by
  have hm : mode = 0 ∨ mode = 1 := by
    have hvalue : mode.toNat = 0 ∨ mode.toNat = 1 := by omega
    exact hvalue.imp (fun h => BitVec.eq_of_toNat_eq h) (fun h => BitVec.eq_of_toNat_eq h)
  have hsome : cancelModeOf (byteAt [tag, mode] 1) = some (modeOf mode) := cancelModeOf_eq mode hm
  have hfind : s.plans.find (([tag, mode] : List Byte).getD 0 0) = none := find_eq_none h
  refine (request_answer rfl hr rfl).trans (congrArg _ ((if_neg hst).trans ?_))
  rw [hsome]
  dsimp only
  rw [hfind]
  rfl

theorem exec_cancel_refused {tag mode : Byte}
    (h : FirstOf [(s.station = .halted, Result.wrongState), (1 < mode.toNat, .badArgument),
      (∀ r ∈ s.plans.records, r.tag ≠ tag, .noSuchTag),
      (∃ r, s.plans.find tag = some r ∧ (r.state = .tail ∨ r.state = .finished), .tooLate)] result) :
    exec (.cancel [tag, mode]) s = .next (Replied s 0x41 result []) := by
  simp only [firstOf_cons, firstOf_nil, and_false, or_false] at h
  obtain ⟨hst, rfl⟩ | ⟨hst, ⟨hmode, rfl⟩ | ⟨hmode, ⟨hnone, rfl⟩ | ⟨-, ⟨r, hfind, hlate⟩, rfl⟩⟩⟩ := h
  · exact (request_answer rfl hr rfl).trans (congrArg _ ((if_pos hst).trans (answer_eq _ _ _ _)))
  · exact exec_cancel_mode hr hst hmode
  · exact exec_cancel_unknown hr hst hmode hnone
  · have hm : mode = 0 ∨ mode = 1 := by
      have hvalue : mode.toNat = 0 ∨ mode.toNat = 1 := by omega
      exact hvalue.imp (fun h => BitVec.eq_of_toNat_eq h) (fun h => BitVec.eq_of_toNat_eq h)
    exact exec_cancel_tooLate hr hst hm hfind (by rcases hlate with h | h <;> simp [Record.tooLate, h])

theorem exec_query_refused {tag : Byte}
    (h : FirstOf [(s.station = .halted, Result.wrongState), (∀ r ∈ s.plans.records, r.tag ≠ tag, .noSuchTag)] result) :
    exec (.query [tag]) s = .next (Replied s 0x42 result []) := by
  simp only [firstOf_cons, firstOf_nil, and_false, or_false] at h
  obtain ⟨hst, rfl⟩ | ⟨hst, hnone, rfl⟩ := h
  · exact (request_answer rfl hr rfl).trans (congrArg _ ((if_pos hst).trans (answer_eq _ _ _ _)))
  · exact exec_query_unknown hr hst hnone

theorem exec_collect_refused
    (h : FirstOf [(s.station = .halted, Result.wrongState),
      (∀ u ∈ s.plans.finished, ∀ x, s.plans.find u = some x → x.state ≠ .finished ∨ x.releasePending = true,
        .empty)] result) :
    exec (.collect []) s = .next (Replied s 0x43 result []) := by
  simp only [firstOf_cons, firstOf_nil, and_false, or_false] at h
  obtain ⟨hst, rfl⟩ | ⟨hst, hnone, rfl⟩ := h
  · exact (request_answer rfl hr rfl).trans (congrArg _ ((if_pos hst).trans (answer_eq _ _ _ _)))
  · exact exec_collect_empty hr hst (firstCollectable_none hnone)

/-- The checks of WITHDRAW on its fence (R168, R169). -/
theorem exec_withdraw_refused {cal load trim side extent : Byte}
    (h : FirstOf [(s.station = .halted, Result.wrongState),
      (1 < cal.toNat ∨ 1 < load.toNat ∨ 1 < trim.toNat ∨ 2 < side.toNat ∨ 16 < extent.toNat ∨ (side = 0 ∧ extent ≠ 0),
        .badArgument),
      (∃ f : Fence, f.side ≠ .none ∧ fenceCode f.side = side.toNat ∧ f.extent = extent.toNat
        ∧ ¬ Widening s.restrictions.fence f, .badArgument)] result) :
    exec (.withdraw [cal, load, trim, side, extent]) s = .next (Replied s 0x52 result []) := by
  simp only [firstOf_cons, firstOf_nil, and_false, or_false] at h
  obtain ⟨hst, rfl⟩ | ⟨hst, ⟨hbad, rfl⟩ | ⟨hgood, ⟨f, hside, hcode, hextent, hnarrow⟩, rfl⟩⟩ := h
  · exact (request_answer rfl hr rfl).trans (congrArg _ ((if_pos hst).trans (answer_eq _ _ _ _)))
  · refine (request_answer rfl hr rfl).trans (congrArg _ ((if_neg hst).trans ?_))
    simp only [byteAt, List.getD_cons_zero, List.getD_cons_succ, answer_eq]
    by_cases hbytes : 1 < cal.toNat ∨ 1 < load.toNat ∨ 1 < trim.toNat ∨ 16 < extent.toNat
    · exact if_pos hbytes
    · rw [if_neg hbytes]
      by_cases hrange : 2 < side.toNat
      · obtain ⟨n, hn⟩ : ∃ n, side.toNat = n + 3 := ⟨side.toNat - 3, by omega⟩
        rw [hn]
        rfl
      · obtain ⟨hzero, hne⟩ : side = 0 ∧ extent ≠ 0 := by
          rcases hbad with h | h | h | h | h | h
          · exact absurd (.inl h) hbytes
          · exact absurd (.inr (.inl h)) hbytes
          · exact absurd (.inr (.inr (.inl h))) hbytes
          · exact absurd h hrange
          · exact absurd (.inr (.inr (.inr h))) hbytes
          · exact h
        subst hzero
        have hextent : extent.toNat ≠ 0 := fun h => hne (BitVec.eq_of_toNat_eq h)
        exact (if_pos rfl).trans (if_pos hextent)
  · have hbytes : ¬(1 < cal.toNat ∨ 1 < load.toNat ∨ 1 < trim.toNat ∨ 16 < extent.toNat) := by
      rintro (h | h | h | h)
      · exact hgood (.inl h)
      · exact hgood (.inr (.inl h))
      · exact hgood (.inr (.inr (.inl h)))
      · exact hgood (.inr (.inr (.inr (.inr (.inl h)))))
    have hfence : ({ side := f.side, extent := extent.toNat } : Fence) = f := by rw [← hextent]
    have hwidens : fenceWidens s.restrictions.fence f = false := by
      rw [Bool.eq_false_iff, ne_eq, fenceWidens_iff]
      exact hnarrow
    refine (request_answer rfl hr rfl).trans (congrArg _ ((if_neg hst).trans ?_))
    simp only [byteAt, List.getD_cons_zero, List.getD_cons_succ, answer_eq]
    rw [if_neg hbytes, ← hcode, fenceSideOf_code]
    dsimp only
    rw [if_neg hside, hfence, hwidens]
    rfl

end

/-- Settles O31. -/
theorem unsoundRequestsAreRefused : Obligations.UnsoundRequestsAreRefused := by
  refine ⟨fun s hr => ⟨fun h => exec_planPortFrameError_plain hr (.inl h),
    fun _ h => exec_planPortFrameError_plain hr (.inr h), fun hload hst => ?_, exec_unknownKind hr⟩,
    fun s p hr => ?_, fun s result away hr haway => ?_⟩
  · obtain ⟨hactive, hbank, hlast, hstandby, hnone⟩ := ProfileStore.dropLoad_frame s.store
    exact ⟨_, exec_planPortFrameError_loading hr hload hst, rfl, hactive, hbank, hlast, hnone, hstandby⟩
  · exact ⟨answer_badLength rfl hr, answer_badLength rfl hr, answer_badLength rfl hr,
      fun _ h => answer_badLength rfl hr (by omega), answer_badLength rfl hr, answer_badLength rfl hr,
      answer_badLength rfl hr, answer_badLength rfl hr, answer_badLength rfl hr, answer_badLength rfl hr,
      answer_badLength rfl hr, answer_badLength rfl hr, answer_badLength rfl hr, answer_badLength rfl hr,
      answer_badLength rfl hr, answer_badLength rfl hr⟩
  · exact ⟨fun _ _ _ hn hd hp h => exec_load_refused hr haway hn hd hp h, fun _ _ hp h => exec_data_refused hr hp h,
      fun h => exec_swap_refused hr haway h, fun _ _ _ ht hw h => exec_setHead_refused hr haway ht hw h,
      fun _ _ h => exec_cancel_refused hr h, fun _ h => exec_query_refused hr h, fun h => exec_collect_refused hr h,
      fun _ _ _ _ _ h => exec_withdraw_refused hr h⟩

end Sys2Proof.Machine
end

section
/-! PROOFS. The envelopes of the plan port. -/

namespace Sys2Proof.Machine

/-! ### Requests (R162 to R164) -/

/-- Of a request's body the envelope reads KIND, payload, CHECK and trailer, and nothing after them. -/
theorem envelopeBody_eq (kind check trailer : Byte) {p : List Byte} (rest : List Byte) (hp : p.length ≤ 64) :
    envelopeBody (BitVec.ofNat 8 (1 + p.length)) (kind :: (p ++ check :: trailer :: rest))
      = if (1 + p.length + kind.toNat + (p.map BitVec.toNat).sum + check.toNat) % 256 = 0
          ∧ (trailer = 0x17 ∨ (trailer = 0x1F ∧ kind = 0x21))
        then .sound kind p (decide (trailer = 0x1F)) else .unsound := by
  have hlen : (BitVec.ofNat 8 (1 + p.length)).toNat = p.length + 1 := by
    rw [BitVec.toNat_ofNat]; omega
  have htrailer : (kind :: (p ++ check :: trailer :: rest)).getD (p.length + 1 + 1) 0 = trailer := by
    exact getD_append_at p (check :: trailer :: rest) 1 0
  have hchecked : (kind :: (p ++ check :: trailer :: rest)).take (p.length + 1 + 1) = kind :: (p ++ [check]) := by
    rw [List.take_succ_cons, List.take_length_add_append] <;> rfl
  have hpayload : ((kind :: (p ++ check :: trailer :: rest)).take (p.length + 1)).drop 1 = p := by
    rw [List.take_succ_cons, List.drop_one, List.tail_cons, List.take_left]
  have hsum : sumsToZero (BitVec.ofNat 8 (1 + p.length) :: kind :: (p ++ [check])) = true
      ↔ (1 + p.length + kind.toNat + (p.map BitVec.toNat).sum + check.toNat) % 256 = 0 := by
    simp only [sumsToZero, decide_eq_true_eq, List.map_cons, List.map_append, List.sum_cons, List.sum_append, hlen,
      List.map_nil, List.sum_nil, Nat.add_zero]
    omega
  have hroom : p.length + 1 + 2 ≤ (kind :: (p ++ check :: trailer :: rest)).length := by
    simp only [List.length_cons, List.length_append]; omega
  unfold envelopeBody
  simp only [hlen, htrailer, hchecked, hpayload, List.getD_cons_zero, hsum]
  exact if_congr ⟨fun ⟨_, _, _, h, ht⟩ => ⟨h, ht⟩, fun ⟨h, ht⟩ => ⟨by omega, by omega, hroom, h, ht⟩⟩ rfl rfl

theorem envelopeOf_request (len : Byte) (body : List Byte) :
    envelopeOf (0x51#8 :: len :: body) = envelopeBody len body := rfl

/-- A sound request is the command of its KIND. -/
theorem commandOf_request (kind check trailer : Byte) {p : List Byte} (rest : List Byte) (hp : p.length ≤ 64) :
    commandOf ([0x51#8, BitVec.ofNat 8 (1 + p.length), kind] ++ p ++ [check, trailer] ++ rest) =
      some (if (1 + p.length + kind.toNat + (p.map BitVec.toNat).sum + check.toNat) % 256 = 0
          ∧ (trailer = 0x17 ∨ (trailer = 0x1F ∧ kind = 0x21))
        then requestOf kind p (decide (trailer = 0x1F)) else .planPortFrameError) := by
  have hshape : [0x51#8, BitVec.ofNat 8 (1 + p.length), kind] ++ p ++ [check, trailer] ++ rest
      = 0x51#8 :: BitVec.ofNat 8 (1 + p.length) :: kind :: (p ++ check :: trailer :: rest) := by
    simp only [List.cons_append, List.nil_append, List.append_assoc]
  rw [hshape, commandOf, envelopeOf_request, envelopeBody_eq kind check trailer rest hp]
  by_cases h : (1 + p.length + kind.toNat + (p.map BitVec.toNat).sum + check.toNat) % 256 = 0
      ∧ (trailer = 0x17 ∨ (trailer = 0x1F ∧ kind = 0x21))
  · rw [if_pos h, if_pos h]
  · rw [if_neg h, if_neg h]

theorem commandOf_outOfRange {len : Byte} {body : List Byte}
    (h : len = 0 ∨ 65 < len.toNat ∨ body.length < len.toNat + 2) :
    commandOf (0x51#8 :: len :: body) = some .planPortFrameError := by
  have hunsound : envelopeBody len body = .unsound := by
    refine if_neg fun ⟨hlow, hhigh, hroom, _, _⟩ => ?_
    rcases h with h | h | h
    · rw [h] at hlow
      exact absurd hlow (by decide)
    · omega
    · omega
  rw [commandOf, envelopeOf_request, hunsound]

theorem commandOf_lead (lead : Byte) (rest : List Byte) :
    (lead = 0xFF → commandOf (lead :: rest) = none)
      ∧ (lead ≠ 0xFF → lead ≠ 0x51 → commandOf (lead :: rest) = some .planPortFrameError) := by
  refine ⟨fun h => ?_, fun hff hlead => ?_⟩
  · have hnone : envelopeOf (lead :: rest) = .noRequest := if_pos h
    rw [commandOf, hnone]
  · have hunsound : envelopeOf (lead :: rest) = .unsound := (if_neg hff).trans (if_neg hlead)
    rw [commandOf, hunsound]

theorem requestOf_eq (kind : Byte) (p : List Byte) (more : Bool) : requestOf kind p more =
    if kind = 0x10 then .configure p else if kind = 0x11 then .start p
    else if kind = 0x20 then .load p else if kind = 0x21 then .data p more
    else if kind = 0x22 then .swap p else if kind = 0x30 then .setHead p
    else if kind = 0x31 then .readHead p else if kind = 0x32 then .calibrate p
    else if kind = 0x40 then .post p else if kind = 0x41 then .cancel p
    else if kind = 0x42 then .query p else if kind = 0x43 then .collect p
    else if kind = 0x50 then .status p else if kind = 0x51 then .identify p
    else if kind = 0x52 then .withdraw p else if kind = 0x5F then .restart p
    else .unknownKind kind p := by
  simp only [← BitVec.toNat_inj]
  unfold requestOf
  generalize kind.toNat = code
  split <;> simp_all

/-! ### The bits of PDI (R162) -/

theorem byteOfBits_eq (x : Byte) : byteOfBits (x.getLsbD 7) (x.getLsbD 6) (x.getLsbD 5) (x.getLsbD 4) (x.getLsbD 3)
    (x.getLsbD 2) (x.getLsbD 1) (x.getLsbD 0) = x := by
  refine BitVec.eq_of_getLsbD_eq fun i hi => ?_
  rw [byteOfBits, bitsNat_bit _ hi]
  interval_cases i <;> rfl

theorem pdiBytes_part {part : List Bool} (h : part.length < 8) : pdiBytes part = [] := by
  unfold pdiBytes
  split
  · simp only [List.length_cons] at h
    omega
  · rfl

theorem pdiBytes_eq (bytes : List Byte) {part : List Bool} (h : part.length < 8) :
    pdiBytes (bytes.flatMap (fun x => [x.getLsbD 7, x.getLsbD 6, x.getLsbD 5, x.getLsbD 4, x.getLsbD 3,
      x.getLsbD 2, x.getLsbD 1, x.getLsbD 0]) ++ part) = bytes := by
  induction bytes with
  | nil => exact pdiBytes_part h
  | cons x bytes ih => exact congrArg₂ List.cons (byteOfBits_eq x) ih

/-! ### Replies (R164) and the levels of PDO and ATTN -/

/-- What the CHECK of a reply covers. -/
def Reply.checkedBytes (r : Reply) : List Byte :=
  [BitVec.ofNat 8 (2 + r.payload.length), r.kind, BitVec.ofNat 8 (resultCode r.result)] ++ r.payload

theorem reply_bytes_eq (r : Reply) :
    r.bytes = 0x52#8 :: (r.checkedBytes ++ [checkByte r.checkedBytes, 0x17#8]) := by
  have hchecked : r.bytes = [0x52#8] ++ r.checkedBytes ++ [checkByte r.checkedBytes] ++ [0x17#8] := rfl
  rw [hchecked]
  simp only [List.append_assoc, List.cons_append, List.nil_append]

theorem reply_bytes_sum (r : Reply) : ((r.bytes.drop 1).map BitVec.toNat).sum % 256 = 0x17 := by
  have hcheck := sum_add_checkByte_mod r.checkedBytes
  have htrailer : (0x17#8).toNat = 0x17 := rfl
  rw [reply_bytes_eq, List.drop_one, List.tail_cons]
  simp only [List.map_append, List.map_cons, List.map_nil, List.sum_append, List.sum_cons, List.sum_nil, htrailer]
  omega

theorem attn_iff {s : State} (hr : s.pins.rstn = true) : s.attn = true ↔
    (∃ r ∈ s.plans.records, r.state = .finished ∧ r.releasePending = false) ∨ s.fault.cause ≠ none := by
  have hcollectable : ∀ r : Record, r.collectable = true ↔ r.state = .finished ∧ r.releasePending = false := fun r => by
    simp [Record.collectable, Record.live]
  simp only [State.attn, hr, Bool.true_and, Bool.or_eq_true, List.any_eq_true, hcollectable, Option.isSome_iff_ne_none]

theorem pdo_low {s : State} (hr : s.pins.rstn = false) (pcs : Bool) (n : Nat) : s.pdo pcs n = none := by
  simp [State.pdo, hr]

theorem pdo_deselected (s : State) (n : Nat) : s.pdo true n = none := by
  simp [State.pdo]

theorem pdo_reply {s : State} (hr : s.pins.rstn = true) (n : Nat) {r : Reply} (h : s.reply = some r) :
    s.pdo false n = some (r.bytes.take n ++ List.replicate (n - r.bytes.length) 0xFF#8) := by
  simp [State.pdo, hr, h, List.take_append]

theorem pdo_empty {s : State} (hr : s.pins.rstn = true) (n : Nat) (h : s.reply = none) :
    s.pdo false n = some (List.replicate n 0xFF#8) := by
  simp [State.pdo, hr, h]

theorem attn_low {s : State} (hr : s.pins.rstn = false) : s.attn = false := by
  simp [State.attn, hr]

/-- Settles O12. -/
theorem planPortEnvelopes : Obligations.PlanPortEnvelopes := by
  refine ⟨fun kind check trailer p rest hp => commandOf_request kind check trailer rest hp,
    fun _ _ h => commandOf_outOfRange h, rfl, rfl, commandOf_lead, requestOf_eq, fun bytes _ h => pdiBytes_eq bytes h,
    fun s pdi => ⟨fun h => ?_, fun c h => ?_⟩, fun r => ⟨checkByte r.checkedBytes, ?_, reply_bytes_sum r⟩,
    fun s n => ⟨fun hr => ⟨fun pcs => pdo_low hr pcs n, attn_low hr⟩, pdo_deselected s n, fun hr h => pdo_empty hr n h,
      fun r hr h => pdo_reply hr n h, fun _ => rfl, attn_iff⟩⟩
  · rw [State.transaction, h, Option.toList_none, List.append_nil]
  · rw [State.transaction, h, Option.toList_some]
  · rw [reply_bytes_eq, Reply.checkedBytes]
    simp only [List.cons_append, List.nil_append]

end Sys2Proof.Machine
end

section
/-! PROOFS. The reset line: its fall, and the part while it is low. -/

namespace Sys2Proof.Machine

/-! ### The fall of RSTn -/

theorem exec_rstnFalls {s : State} (hr : s.pins.rstn = true) : exec .rstnFalls s = .next { s with
    pins := { s.pins with rstn := false }, seq := { s.seq with laser := .off, wfault := false },
    link := { s.link with onLine := none }, drive := (s.setLaser .off).drive, free := (s.setLaser .off).free } := by
  have hhigh : ¬ (!s.pins.rstn) = true := by simp [hr]
  refine congrArg _ ((if_neg hhigh).trans ?_)
  rw [setLaser_off_eq s]
  rfl

theorem driven_low {s : State} (hr : s.pins.rstn = false) : s.driven = true := by
  simp [State.driven, hr]

/-! ### Commands while RSTn is low (R174) -/

section
variable {s : State} (hr : s.pins.rstn = false)
include hr

theorem takesEvents_low : s.takesEvents = false := by simp [State.takesEvents, hr]

theorem request_low (k : Byte) (p : List Byte) (n : Nat) (handle : State → State) : s.request k p n handle = s := by
  simp [State.request, hr]

theorem takePulse_low (interval : Nat) : s.takePulse interval = s := by simp [State.takePulse, hr]

theorem resolveDueSwap_low : s.resolveDueSwap = s := by
  simp [State.resolveDueSwap, State.swapDue, takesEvents_low hr]

theorem foreignLevel_low : s.foreignLevel = s := by simp [State.foreignLevel, hr]

theorem receives_low : s.receives = false := by simp [State.receives, hr]

theorem takeFrame_low (n : Station) (stamp : Option Time) (act : State → State) : s.takeFrame n stamp act = s := by
  simp [State.takeFrame, receives_low hr, foreignLevel_low hr]

/-- The gates and RAIL_ALERT only move their lines. -/
theorem exec_gate_low :
    exec .wgateRise s = .next { s with pins := { s.pins with wgate := true } }
    ∧ exec .wgateFall s = .next { s with pins := { s.pins with wgate := false } }
    ∧ exec .sgateRise s = .next { s with pins := { s.pins with sgate := true } }
    ∧ exec .sgateFall s = .next { s with pins := { s.pins with sgate := false } }
    ∧ exec .railAlertRise s = .next { s with pins := { s.pins with railAlert := true } } := by
  refine ⟨?_, ?_, ?_, ?_, ?_⟩
  · cases h : s.pins.wgate with
    | false => simp [exec, execWgateRise, h, hr]
    | true => exact congrArg _ ((if_pos h).trans (by rw [← h]))
  · cases h : s.pins.wgate with
    | false => exact congrArg _ ((if_pos (by simp [h])).trans (by rw [← h]))
    | true => simp [exec, execWgateFall, h, hr]
  · cases h : s.pins.sgate with
    | false => simp [exec, execSgateRise, h, takesEvents_low hr]
    | true => exact congrArg _ ((if_pos h).trans (by rw [← h]))
  · cases h : s.pins.sgate with
    | false => exact congrArg _ ((if_pos (by simp [h])).trans (by rw [← h]))
    | true => simp [exec, execSgateFall, h, takesEvents_low hr]
  · simp [exec, execRailAlertRise, takesEvents_low hr]

/-- The end of a step only takes the levels of the comparator lines. -/
theorem exec_stepEnd_low (lo hi : Bool) :
    exec (.profileStepEnd lo hi) s = .next { s with pins := { s.pins with monlo := lo, monhi := hi } }
    ∧ exec (.calibrationStepEnd lo hi) s = .next { s with pins := { s.pins with monlo := lo, monhi := hi } } := by
  refine ⟨?_, ?_⟩
  · simp [exec, execProfileStepEnd, takesEvents_low hr, State.setMonitorLines]
  · simp only [exec, execCalibrationStepEnd, takesEvents_low hr]
    split <;> rfl

end

/-- A command that leaves a part in reset alone: all but the rise of RSTn and those that move an input line. -/
def LeavesReset (c : Instr) : Prop :=
  (∀ straps, c ≠ .powerOn straps) ∧ c ≠ .wgateRise ∧ c ≠ .wgateFall ∧ c ≠ .sgateRise ∧ c ≠ .sgateFall
  ∧ c ≠ .railAlertRise ∧ (∀ lo hi, c ≠ .profileStepEnd lo hi) ∧ ∀ lo hi, c ≠ .calibrationStepEnd lo hi

theorem exec_low {s : State} (hr : s.pins.rstn = false) {c : Instr} (h : LeavesReset c) : exec c s = .next s := by
  obtain ⟨hon, hwrise, hwfall, hsrise, hsfall, hrail, hprofile, hcal⟩ := h
  cases c with
  | powerOn straps => exact absurd rfl (hon straps)
  | wgateRise => exact absurd rfl hwrise
  | wgateFall => exact absurd rfl hwfall
  | sgateRise => exact absurd rfl hsrise
  | sgateFall => exact absurd rfl hsfall
  | railAlertRise => exact absurd rfl hrail
  | profileStepEnd lo hi => exact absurd rfl (hprofile lo hi)
  | calibrationStepEnd lo hi => exact absurd rfl (hcal lo hi)
  | configure _ | start _ | load _ | data _ _ | swap _ | setHead _ | readHead _ | calibrate _ | post _ | cancel _
  | query _ | collect _ | status _ | identify _ | withdraw _ | restart _ =>
    exact congrArg Host.Outcome.next (request_low hr _ _ _ _)
  | planPortFrameError | unknownKind _ _ | rstnFalls => exact congrArg Host.Outcome.next (if_pos (by simp [hr]))
  | indexPulse interval => exact congrArg Host.Outcome.next (takePulse_low hr interval)
  | peerLost _ interval | listenEnd interval | resyncTimeout interval | quietTimeout interval =>
    exact congrArg Host.Outcome.next ((congrArg (fun t => ite _ t s) (takePulse_low hr interval)).trans (ite_self s))
  | clockHold | spindleLoss | idleForMoreThan20BitTimes => exact congrArg Host.Outcome.next (if_neg (by simp [hr]))
  | writeWindowOpens tag _ =>
    simp only [exec, execWriteWindowOpens, takesEvents_low hr, Bool.false_and, Bool.false_eq_true, if_false]
    split
    · rfl
    · split <;> rfl
  | calWindowOpens tag _ | transmitDeadline tag =>
    simp only [exec, execCalWindowOpens, execTransmitDeadline, takesEvents_low hr, Bool.false_and,
      Bool.false_eq_true, if_false]
    split <;> rfl
  | windowEndReached =>
    simp only [exec, execWindowEndReached, takesEvents_low hr, Bool.false_and, Bool.false_eq_true, if_false]
    cases s.currentRecord <;> rfl
  | writeStartDeadline | writeDeadline =>
    simp only [exec, execWriteStartDeadline, execWriteDeadline, takesEvents_low hr, Bool.false_and,
      Bool.false_eq_true, if_false]
    cases s.currentRecord <;> cases s.seq.profile <;> rfl
  | swapResolution => exact congrArg Host.Outcome.next (resolveDueSwap_low hr)
  | frameStart idle => exact congrArg Host.Outcome.next (if_neg (by simp [State.mayStart, hr]))
  | transmissionCompletes | collision =>
    simp only [exec, execTransmissionCompletes, execCollision, hr, Bool.false_eq_true, if_false]
    cases s.link.onLine <;> rfl
  | linkFrameError low =>
    simp only [exec, execLinkFrameError, receives_low hr, foreignLevel_low hr, Bool.false_eq_true, if_false, ite_self]
  | join _ _ _ _ | beacon _ _ _ _ _ _ | claim _ _ _ _ _ _ _ _ | release _ _ _ _ _ | syncRequest _ | announce _ _ _
  | syncDone _ _ _ _ => exact congrArg Host.Outcome.next (takeFrame_low hr _ _ _)

/-- Settles O33. -/
theorem rstnLowHoldsThePart : Obligations.RstnLowHoldsThePart := by
  refine ⟨fun s hr => ⟨_, exec_rstnFalls hr, rfl, setLaser_off_sent s, attn_low rfl, driven_low rfl,
    fun pcs n => pdo_low rfl pcs n⟩, fun s hr => ?_⟩
  obtain ⟨hwrise, hwfall, hsrise, hsfall, hrail⟩ := exec_gate_low hr
  exact ⟨hwrise, hwfall, hsrise, hsfall, hrail, fun lo hi => (exec_stepEnd_low hr lo hi).1,
    fun lo hi => (exec_stepEnd_low hr lo hi).2, fun c hon h1 h2 h3 h4 h5 h6 h7 =>
      exec_low hr ⟨hon, h1, h2, h3, h4, h5, h6, h7⟩⟩

end Sys2Proof.Machine
end

section
/-! PROOFS. INDEX pulses and the timeouts that are pulses. -/

namespace Sys2Proof.Machine

/-! ### The stages of a pulse in the Peer Block (log 26) -/

/-- The entry of a station after a pulse. -/
def pulsedEntry (s : State) (n : Station) : PeerEntry :=
  (s.peers.table.map EntryPulsed).getD n.toNat PeerEntry.absentEntry

/-- The awaited set without the peers that a pulse makes LOST (R145). -/
def stillAwaited (s : State) : List Station :=
  s.peers.awaited.filter (fun n => decide ((pulsedEntry s n).state ≠ .lost))

/-- The transmit queue after the LOST peers have left the awaited set (R155). -/
def collectedQueue (s : State) : List TxEntry :=
  if s.peers.requester = true ∧ stillAwaited s ≠ s.peers.awaited ∧ ∀ n ∈ stillAwaited s, (pulsedEntry s n).announced = true
  then AddedOnce s.link.queue .syncDone else s.link.queue

theorem pulse_eq_entryPulsed (e : PeerEntry) : e.pulse = EntryPulsed e := by
  unfold PeerEntry.pulse EntryPulsed
  by_cases hcount : 4 ≤ e.lastHeard + 1
  · rw [if_pos hcount, if_neg (by omega : ¬ e.lastHeard < 3)]
  · rw [if_neg hcount, if_pos (by omega : e.lastHeard < 3)]

theorem pulsedEntry_eq (s : State) (n : Station) : pulsedEntry s n = EntryPulsed (s.peers.entry n) := by
  exact List.getD_map s.peers.table PeerEntry.absentEntry EntryPulsed

theorem enqueueOnce_eq (l : Link) {e : TxEntry} (he : e = .beacon ∨ e = .syncDone) :
    l.enqueueOnce e = { l with queue := AddedOnce l.queue e } := by
  have hkey : l.holds e.key = true ↔ e ∈ l.queue := by
    simp only [Link.holds, List.any_eq_true, beq_iff_eq]
    refine ⟨fun ⟨x, hx, hxe⟩ => ?_, fun h => ⟨e, h, rfl⟩⟩
    have hsame : x = e := by
      rcases he with rfl | rfl <;> cases x <;> simp [TxEntry.key] at hxe ⊢
    exact hsame ▸ hx
  unfold Link.enqueueOnce AddedOnce Link.enqueue
  by_cases h : e ∈ l.queue
  · rw [if_pos (hkey.2 h), if_pos h]
  · rw [if_neg (fun hh => h (hkey.1 hh)), if_neg h]

theorem pulseLost_eq (s : State) : s.pulseLost = { s with
    peers := { s.peers with table := s.peers.table.map EntryPulsed, awaited := stillAwaited s },
    link := { s.link with queue := collectedQueue s } } := by
  have htable : s.peers.table.map PeerEntry.pulse = s.peers.table.map EntryPulsed :=
    List.map_congr_left fun e _ => pulse_eq_entryPulsed e
  let u : State := { s with peers := { s.peers with table := s.peers.table.map EntryPulsed, awaited := stillAwaited s } }
  have hstage : s.pulseLost = if stillAwaited s = s.peers.awaited then u else u.completeIfCollected := by
    unfold State.pulseLost
    rw [htable]
    rfl
  have hall : (u.peers.requester && u.peers.awaited.all (fun n => (u.peers.entry n).announced)) = true
      ↔ s.peers.requester = true ∧ ∀ n ∈ stillAwaited s, (pulsedEntry s n).announced = true := by
    rw [Bool.and_eq_true, List.all_eq_true]
    exact Iff.rfl
  rw [hstage]
  by_cases hkept : stillAwaited s = s.peers.awaited
  · rw [if_pos hkept, collectedQueue, if_neg fun h => h.2.1 hkept]
  · rw [if_neg hkept, State.completeIfCollected]
    by_cases hdone : s.peers.requester = true ∧ ∀ n ∈ stillAwaited s, (pulsedEntry s n).announced = true
    · rw [if_pos (hall.2 hdone), collectedQueue, if_pos ⟨hdone.1, hkept, hdone.2⟩, enqueueOnce_eq _ (.inr rfl)]
    · rw [if_neg fun h => hdone (hall.1 h), collectedQueue, if_neg fun h => hdone ⟨h.1, h.2.2⟩]

theorem pulseListen_stays {s : State} (h : ¬(s.station = .listen ∧ 1 ≤ s.peers.listenPulses)) : s.pulseListen = { s with
    peers := { s.peers with listenPulses :=
      if s.station = .listen then s.peers.listenPulses + 1 else s.peers.listenPulses } } := by
  unfold State.pulseListen
  by_cases hl : s.station = .listen
  · have hfirst : ¬ 2 ≤ s.peers.listenPulses + 1 := fun hc => h ⟨hl, by omega⟩
    rw [if_pos hl, if_pos hl]
    exact if_neg hfirst
  · rw [if_neg hl, if_neg hl]

theorem pulseListen_ends {s : State} (hl : s.station = .listen) (h : 1 ≤ s.peers.listenPulses) : s.pulseListen = { s with
    clock := { s.clock with revolution := if s.peers.adopted then s.clock.revolution else 0 },
    station := .joining,
    peers := { s.peers with listenPulses := s.peers.listenPulses + 1, sync := .desync },
    link := { s.link with queue := RequestQueued s.link.queue .join } } := by
  unfold State.pulseListen
  rw [if_pos hl]
  refine (if_pos (by show 2 ≤ s.peers.listenPulses + 1; omega)).trans ?_
  unfold State.enterJoining
  rw [enqueueRequest_eq]

theorem pulseQuiet_eq (s : State) : s.pulseQuiet = { s with peers := { s.peers with
    quiet := if 1 ≤ s.peers.quietPulses then none else s.peers.quiet,
    quietPulses := if s.peers.quiet ≠ none then min (s.peers.quietPulses + 1) 2 else s.peers.quietPulses } } := by
  unfold State.pulseQuiet
  cases hquiet : s.peers.quiet with
  | none => simp [← hquiet]
  | some n =>
    rw [Option.isSome_some, if_pos rfl, if_pos (Option.some_ne_none n)]
    by_cases hcount : 1 ≤ s.peers.quietPulses
    · rw [if_pos (by omega), if_pos hcount, Nat.min_eq_right (by omega)]
    · rw [if_neg (by omega), if_neg hcount, Nat.min_eq_left (by omega), ← hquiet]

theorem pulseReRequest_eq (s : State) : s.pulseReRequest = { s with
    peers := { s.peers with reRequest := false },
    link := { s.link with
      queue := if s.peers.reRequest
        then RequestQueued s.link.queue (if s.station = .joining then .join else .syncRequest)
        else s.link.queue } } := by
  unfold State.pulseReRequest
  cases h : s.peers.reRequest with
  | false =>
    have hpeers : s.peers = { s.peers with reRequest := false } := by rw [← h]
    rw [if_neg Bool.false_ne_true, if_neg Bool.false_ne_true, ← hpeers]
  | true => rw [if_pos rfl, if_pos rfl, enqueueRequest_eq]

/-- The requester's count after a pulse. -/
def withRequesterPulse (s : State) : State :=
  { s with peers := { s.peers with requesterPulses :=
      if s.peers.requester then min (s.peers.requesterPulses + 1) 2 else s.peers.requesterPulses } }

theorem syncDoneStarted_iff (s : State) :
    s.syncDoneStarted = true ↔ ¬ ∀ stamp d b, s.link.onLine ≠ some ⟨.syncDone stamp d, b⟩ := by
  unfold State.syncDoneStarted
  split
  · rename_i stamp d b h
    exact ⟨fun _ hno => hno stamp d b h, fun _ => rfl⟩
  · rename_i h
    exact ⟨fun hf => absurd hf Bool.false_ne_true, fun hno => absurd (fun stamp d b => h stamp d b) hno⟩

theorem pulseRequester_eq (s : State) (h : TimesOut s → False) : s.pulseRequester = withRequesterPulse s := by
  unfold State.pulseRequester withRequesterPulse
  cases hreq : s.peers.requester with
  | false => simp
  | true =>
    rw [if_pos rfl, if_pos rfl]
    refine if_neg fun ⟨hcount, hstarted⟩ => h ⟨hreq, ?_, ?_⟩
    · have hmin : 2 ≤ min (s.peers.requesterPulses + 1) 2 := hcount
      omega
    · exact Classical.not_not.1 fun hno => hstarted ((syncDoneStarted_iff s).2 hno)

theorem pulseRequester_timesOut {s : State} (h : TimesOut s) : s.pulseRequester = GivenUp (withRequesterPulse s) := by
  obtain ⟨hreq, hcount, honLine⟩ := h
  unfold State.pulseRequester
  rw [if_pos hreq]
  have hsecond : 2 ≤ min (s.peers.requesterPulses + 1) 2 := by omega
  refine (if_pos ⟨hsecond, fun hstarted => (syncDoneStarted_iff s).1 hstarted honLine⟩).trans ?_
  rw [abandon_eq, withRequesterPulse, if_pos hreq]

/-! ### A whole pulse -/

theorem resolveDueSwap_idle {s : State} (h : ¬ SwapDue s) : s.resolveDueSwap = s :=
  if_neg fun hd => h ((swapDue_iff s).1 hd)

theorem takePulse_eq {s : State} (hr : s.pins.rstn = true) (h : ¬ SwapDue s) (interval : Nat) :
    s.takePulse interval = State.peerPulse { s with clock := ClockPulsed s.clock interval } := by
  rw [State.takePulse, if_pos hr, resolveDueSwap_idle h]
  rfl

/-- A station that does not read the line takes a pulse at its clock alone. -/
theorem takePulse_clock {s : State} (hr : s.pins.rstn = true) (h : ¬ SwapDue s)
    (hst : s.station = .setup ∨ s.station = .halted) (interval : Nat) :
    s.takePulse interval = { s with clock := ClockPulsed s.clock interval } := by
  rw [takePulse_eq hr h]
  refine if_neg fun hreads => ?_
  obtain ⟨hset, hhalt⟩ := station_of_readsLine hreads
  exact hst.elim hset hhalt

/-- A pulse up to the requester's count, where LISTEN goes on. -/
def beforeRequester (s : State) : State :=
  { s with
    peers := { s.peers with
      table := s.peers.table.map EntryPulsed, awaited := stillAwaited s, reRequest := false,
      listenPulses := if s.station = .listen then s.peers.listenPulses + 1 else s.peers.listenPulses,
      quiet := if 1 ≤ s.peers.quietPulses then none else s.peers.quiet,
      quietPulses := if s.peers.quiet ≠ none then min (s.peers.quietPulses + 1) 2 else s.peers.quietPulses },
    link := { s.link with
      queue := if s.peers.reRequest
        then RequestQueued (collectedQueue s) (if s.station = .joining then .join else .syncRequest)
        else collectedQueue s } }

theorem pulse_stages {s : State} (h : ¬(s.station = .listen ∧ 1 ≤ s.peers.listenPulses)) :
    s.pulseLost.pulseListen.pulseQuiet.pulseReRequest = beforeRequester s := by
  let u : State := { s with
    peers := { s.peers with table := s.peers.table.map EntryPulsed, awaited := stillAwaited s },
    link := { s.link with queue := collectedQueue s } }
  have hlost : s.pulseLost = u := pulseLost_eq s
  rw [hlost, pulseListen_stays (s := u) h, pulseQuiet_eq, pulseReRequest_eq]
  rfl

/-- The BEACON of an ACTIVE station joins the queue, behind what a timeout leaves in it. -/
theorem givenUp_beacon (s : State) :
    { GivenUp s with link := { (GivenUp s).link with queue := AddedOnce (GivenUp s).link.queue .beacon } }
      = GivenUp { s with link := { s.link with queue := AddedOnce s.link.queue .beacon } } := by
  have hqueue : AddedOnce (s.link.queue.filter (fun e => decide (e.key ≠ .syncDone))) .beacon
      = (AddedOnce s.link.queue .beacon).filter (fun e => decide (e.key ≠ .syncDone)) := by
    have hkept : decide (TxEntry.beacon.key ≠ .syncDone) = true := rfl
    unfold AddedOnce
    by_cases h : TxEntry.beacon ∈ s.link.queue
    · rw [if_pos h, if_pos (List.mem_filter.2 ⟨h, hkept⟩)]
    · rw [if_neg h, if_neg fun hm => h (List.mem_filter.1 hm).1, List.filter_append, List.filter_cons, if_pos hkept,
        List.filter_nil]
  simp only [GivenUp, Unsent, hqueue]

/-- The BEACON of a pulse (R152). -/
theorem peerPulse_eq {s : State} (h : s.readsLine = true) (hgoes : ¬(s.station = .listen ∧ 1 ≤ s.peers.listenPulses)) :
    s.peerPulse = { (beforeRequester s).pulseRequester with
      link := { (beforeRequester s).pulseRequester.link with
        queue := if s.station = .active then AddedOnce (beforeRequester s).pulseRequester.link.queue .beacon
          else (beforeRequester s).pulseRequester.link.queue } } := by
  rw [State.peerPulse, if_pos h, pulse_stages hgoes]
  by_cases hactive : s.station = .active
  · rw [if_pos hactive, if_pos hactive, enqueueOnce_eq _ (.inl rfl)]
  · rw [if_neg hactive, if_neg hactive]

/-- Pulsed, stage by stage. -/
theorem pulsed_eq (s : State) (interval : Nat) : Pulsed s interval = { withRequesterPulse (beforeRequester s) with
    clock := ClockPulsed s.clock interval,
    link := { (withRequesterPulse (beforeRequester s)).link with
      queue := if s.station = .active then AddedOnce (withRequesterPulse (beforeRequester s)).link.queue .beacon
        else (withRequesterPulse (beforeRequester s)).link.queue } } := rfl

/-- Where LISTEN goes on, a pulse leaves Pulsed, and at a timeout gives the resynchronisation up. -/
theorem takePulse_pulsed {s : State} (hr : s.pins.rstn = true) (hswap : ¬ SwapDue s)
    (hst : (s.station = .listen ∧ s.peers.listenPulses = 0) ∨ s.station = .joining ∨ s.station = .active)
    {interval : Nat} {t : State}
    (ht : TimesOut s ∧ t = GivenUp (Pulsed s interval) ∨ ¬ TimesOut s ∧ t = Pulsed s interval) :
    s.takePulse interval = t := by
  let u : State := { s with clock := ClockPulsed s.clock interval }
  have hreads : u.readsLine = true := (readsLine_iff u).2 (hst.imp_left And.left)
  have hgoes : ¬(u.station = .listen ∧ 1 ≤ u.peers.listenPulses) := by
    rintro ⟨hl, hcount⟩
    rcases hst with ⟨-, hzero⟩ | h | h
    · exact absurd hcount (by show ¬ 1 ≤ s.peers.listenPulses; omega)
    · exact absurd (hl.symm.trans h) (by decide)
    · exact absurd (hl.symm.trans h) (by decide)
  rw [takePulse_eq hr hswap, peerPulse_eq (s := u) hreads hgoes]
  rcases ht with ⟨hout, rfl⟩ | ⟨hin, rfl⟩
  · rw [pulseRequester_timesOut (s := beforeRequester u) hout]
    rw [pulsed_eq]
    by_cases hactive : s.station = .active
    · rw [if_pos hactive, if_pos hactive, givenUp_beacon]
      rfl
    · rw [if_neg hactive, if_neg hactive]
      rfl
  · rw [pulseRequester_eq (beforeRequester u) hin]
    rfl

/-! ### A pulse with nothing outstanding, and CLOCK_HOLD -/

theorem entry_mem_or_absent (p : PeerBlock) (n : Station) : p.entry n ∈ p.table ∨ p.entry n = PeerEntry.absentEntry := by
  rw [PeerBlock.entry, List.getD_eq_getElem?_getD]
  cases h : p.table[n.toNat]? with
  | none => exact .inr rfl
  | some e => exact .inl (List.mem_of_getElem? h)

theorem entryPulsed_counted {e : PeerEntry} (h : e.state = .joining ∨ e.state = .active → e.lastHeard < 3) :
    EntryPulsed e = if e.state = .joining ∨ e.state = .active then { e with lastHeard := e.lastHeard + 1 } else e := by
  unfold EntryPulsed
  by_cases hs : e.state = .joining ∨ e.state = .active
  · rw [if_pos hs, if_pos hs, if_pos (h hs)]
  · rw [if_neg hs, if_neg hs]

/-- No awaited peer is lost where none has been silent for three revolutions. -/
theorem stillAwaited_all {s : State}
    (hheard : ∀ e ∈ s.peers.table, e.state = .joining ∨ e.state = .active → e.lastHeard < 3)
    (hawaited : ∀ n ∈ s.peers.awaited, (s.peers.entry n).state ≠ .lost) : stillAwaited s = s.peers.awaited := by
  refine List.filter_eq_self.2 fun n hn => decide_eq_true ?_
  have hcount : (s.peers.entry n).state = .joining ∨ (s.peers.entry n).state = .active →
      (s.peers.entry n).lastHeard < 3 := by
    rcases entry_mem_or_absent s.peers n with h | h
    · exact hheard _ h
    · intro _
      rw [h]
      decide
  rw [pulsedEntry_eq, entryPulsed_counted hcount]
  split <;> exact hawaited n hn

/-- A pulse at which no peer is lost and no count is full, as R2 and the rules it names list it. -/
theorem pulsed_quiet {s : State} {interval : Nat}
    (hlisten : s.station = .listen → s.peers.listenPulses = 0)
    (hreq : s.peers.requester = true → s.peers.requesterPulses = 0)
    (hquiet : s.peers.quiet ≠ none → s.peers.quietPulses = 0)
    (hheard : ∀ e ∈ s.peers.table, e.state = .joining ∨ e.state = .active → e.lastHeard < 3)
    (hawaited : ∀ n ∈ s.peers.awaited, (s.peers.entry n).state ≠ .lost) {q : List TxEntry}
    (hq : q = if s.peers.reRequest then RequestQueued s.link.queue (if s.station = .joining then .join else .syncRequest)
      else s.link.queue) :
    Pulsed s interval = { s with
      clock := ClockPulsed s.clock interval,
      peers := { s.peers with
        table := s.peers.table.map (fun e =>
          if e.state = .joining ∨ e.state = .active then { e with lastHeard := e.lastHeard + 1 } else e),
        listenPulses := if s.station = .listen then 1 else s.peers.listenPulses,
        quietPulses := if s.peers.quiet ≠ none then 1 else s.peers.quietPulses,
        requesterPulses := if s.peers.requester then 1 else s.peers.requesterPulses,
        reRequest := false },
      link := { s.link with
        queue := if s.station ≠ .active ∨ TxEntry.beacon ∈ q then q else q ++ [.beacon] } } := by
  have htable : s.peers.table.map EntryPulsed = s.peers.table.map (fun e =>
      if e.state = .joining ∨ e.state = .active then { e with lastHeard := e.lastHeard + 1 } else e) :=
    List.map_congr_left fun e he => entryPulsed_counted (hheard e he)
  have hstill := stillAwaited_all hheard hawaited
  have hcollected : collectedQueue s = s.link.queue := if_neg fun h => h.2.1 hstill
  have hlistenPulses : (if s.station = .listen then s.peers.listenPulses + 1 else s.peers.listenPulses)
      = if s.station = .listen then 1 else s.peers.listenPulses := by
    by_cases h : s.station = .listen
    · rw [if_pos h, if_pos h, hlisten h]
    · rw [if_neg h, if_neg h]
  have hrequesterPulses : (if s.peers.requester = true then min (s.peers.requesterPulses + 1) 2 else s.peers.requesterPulses)
      = if s.peers.requester = true then 1 else s.peers.requesterPulses := by
    by_cases h : s.peers.requester = true
    · rw [if_pos h, if_pos h, hreq h] <;> rfl
    · rw [if_neg h, if_neg h]
  have hquietNumber : (if 1 ≤ s.peers.quietPulses then none else s.peers.quiet) = s.peers.quiet := by
    by_cases h : s.peers.quiet = none
    · rw [h, ite_self]
    · rw [hquiet h, if_neg (by decide)]
  have hquietPulses : (if s.peers.quiet ≠ none then min (s.peers.quietPulses + 1) 2 else s.peers.quietPulses)
      = if s.peers.quiet ≠ none then 1 else s.peers.quietPulses := by
    by_cases h : s.peers.quiet = none
    · rw [if_neg (not_not.2 h), if_neg (not_not.2 h)]
    · rw [if_pos h, if_pos h, hquiet h] <;> rfl
  have hqueue : (if s.station = .active then AddedOnce q .beacon else q)
      = if s.station ≠ .active ∨ TxEntry.beacon ∈ q then q else q ++ [.beacon] := by
    unfold AddedOnce
    by_cases h : s.station = .active <;> simp [h]
  rw [pulsed_eq, ← hqueue, hq]
  simp only [withRequesterPulse, beforeRequester, htable, hstill, hcollected, hlistenPulses, hrequesterPulses,
    hquietNumber, hquietPulses]

/-- The clock at 4095, where it holds (R3). -/
theorem exec_clockHold {s : State} (hr : s.pins.rstn = true) (hv : s.clock.valid = true) (hh : s.clock.hold = false)
    (hswap : SwapDue s → s.clock.angle = 4095)
    (hevents : ∀ t c, ClockEvent s t c → timeBefore t (s.clock.revolution ++ (4095#12)) = false) :
    exec .clockHold s = .next { s with clock := { s.clock with angle := 4095, hold := true } } := by
  have hruns : (s.pins.rstn && s.clock.running) = true := by simp [Clock.running, hr, hv, hh]
  refine congrArg _ ((if_pos hruns).trans ?_)
  have hadvance : ∀ t : State, t = s ∨ (∃ a, t = { s with clock := s.clock.advanceTo a }) →
      { t with clock := t.clock.advanceTo 4095 } = { s with clock := { s.clock with angle := 4095, hold := true } } := by
    rintro t (rfl | ⟨a, rfl⟩) <;> rfl
  by_cases hreached : s.reached s.clock.holdTime = true
  · rw [State.atTime, State.clockTo, if_pos hreached]
    exact hadvance s (.inl rfl)
  · have hnotDue : s.swapDue = false := by
      rw [Bool.eq_false_iff, ne_eq, swapDue_iff]
      intro hdue
      have hnow : s.now = s.clock.holdTime := congrArg (fun a => s.clock.revolution ++ a) (hswap hdue)
      exact hreached ((reached_iff _ _).2 (by rw [hnow]; simp [timeDiff]))
    have hrevolution : stampRevolution s.clock.holdTime = s.clock.revolution := by
      exact BitVec.extractLsb'_append_eq_left
    have hclear : s.timeEvents.all (fun e => !timeBefore e.1 s.clock.holdTime) = true := by
      refine List.all_eq_true.2 fun e he => ?_
      have hbefore := hevents e.1 e.2 ((mem_timeEvents s e.1 e.2).1 he)
      exact (congrArg not hbefore : (!timeBefore e.1 s.clock.holdTime) = !false)
    have hgo : (s.pins.rstn && s.clock.running && !s.swapDue
        && decide (stampRevolution s.clock.holdTime = s.clock.revolution)
        && s.timeEvents.all (fun e => !timeBefore e.1 s.clock.holdTime)) = true := by
      rw [hruns, hnotDue, hrevolution, hclear]
      simp
    rw [State.atTime, State.clockTo, if_neg hreached, if_pos hgo]
    exact hadvance _ (.inr ⟨_, rfl⟩)

/-! ### The swap before a pulse (R108) -/

/-- A resolved swap leaves no swap pending (R110, R111). -/
theorem resolveSwap_settles {s : State} (h : StoreSound s)
    {records : List Record} : (s.store.resolveSwap records).standbyBank.state ≠ .swapPending := by
  obtain ⟨-, -, hactive, -⟩ := h
  cases hblock : swapBlocker s.store.standbyBank records with
  | none =>
    obtain ⟨-, -, -, hstandby, -⟩ := s.store.completeSwap_frame
    rw [resolveSwap_done hblock, hstandby]
    rcases hactive with h | h <;> simp [h]
  | some r =>
    rw [resolveSwap_refused hblock]
    cases hbank : s.store.active <;> simp [ProfileStore.setStandby, ProfileStore.standbyBank, hbank]

/-- A swap that is due is resolved first: the pulse finds what the resolution leaves. -/
theorem takePulse_afterSwap {s u : State} (hdue : SwapDue s) (hstore : StoreSound s)
    (hu : exec .swapResolution s = .next u) (interval : Nat) : s.takePulse interval = u.takePulse interval := by
  have hnext : s.resolveDueSwap = u := Host.Outcome.next.inj hu
  have hresolved : u = { s with store := s.store.resolveSwap s.plans.records } :=
    Host.Outcome.next.inj (hu.symm.trans (exec_swapResolution_due hdue))
  have hidle : ¬ SwapDue u := by
    rintro ⟨-, -, hstill, -⟩
    rw [hresolved] at hstill
    exact resolveSwap_settles hstore hstill
  have hhigh : u.pins.rstn = true := by rw [hresolved]; exact hdue.1
  have hclock : u.clock = s.clock := by rw [hresolved]
  rw [State.takePulse, State.takePulse, if_pos hdue.1, if_pos hhigh, resolveDueSwap_idle hidle, hnext, hclock]

/-- Settles O34. -/
theorem pulseAndHoldMoveTheClock : Obligations.PulseAndHoldMoveTheClock := by
  intro s hr
  refine ⟨fun interval u hdue hstore hu => congrArg Host.Outcome.next (takePulse_afterSwap hdue hstore hu interval),
    fun interval hswap hst => congrArg Host.Outcome.next (takePulse_clock hr hswap hst interval),
    fun interval hswap hst hreq hquiet hheard hawaited q hq => congrArg Host.Outcome.next ?_, exec_clockHold hr⟩
  have hin : ¬ TimesOut s := fun ⟨h, hcount, _⟩ => by
    rw [hreq h] at hcount
    exact absurd hcount (by decide)
  have hlisten : s.station = .listen → s.peers.listenPulses = 0 := fun h => by
    rcases hst with ⟨-, hzero⟩ | h' | h'
    · exact hzero
    · exact absurd (h.symm.trans h') (by decide)
    · exact absurd (h.symm.trans h') (by decide)
  rw [takePulse_pulsed hr hswap hst (.inr ⟨hin, rfl⟩)]
  exact pulsed_quiet hlisten hreq hquiet hheard hawaited hq

end Sys2Proof.Machine
end

section
/-! PROOFS. The timeouts: one that is not due does not resolve a swap. -/

namespace Sys2Proof.Machine

/-- An ACTIVE station in no QUIET, its standby bank waiting for the swap. -/
def swapWaiting : State :=
  { State.reset with
    station := .active,
    store := { ProfileStore.powerOn with bankB := { Bank.erased with state := .swapPending } } }

theorem swapWaiting_due : SwapDue swapWaiting :=
  ⟨rfl, (by decide), rfl, rfl⟩

theorem swapWaiting_store : StoreSound swapWaiting :=
  ⟨bankSound_erased, bankSound_erased.withState _, .inl rfl, ⟨fun h => absurd h (by decide), fun h => absurd h (by decide)⟩,
    fun _ h => nomatch h⟩

/-- Outside QUIET a QUIET_TIMEOUT is not due, and changes nothing. -/
theorem exec_quietTimeout_notDue {s : State} (h : s.peers.quiet = none) (interval : Nat) :
    exec (.quietTimeout interval) s = .next s := by
  refine congrArg _ (if_neg ?_)
  simp [h]

/-- Refutes O36: at an ACTIVE station with a swap due and no QUIET the QUIET_TIMEOUT is not due and leaves the swap
pending, while after the resolution the same command leaves the resolved bank. -/
theorem not_timeoutsActAtTheirPulse : ¬ Obligations.TimeoutsActAtTheirPulse := by
  intro h
  let u : State := { swapWaiting with store := swapWaiting.store.resolveSwap swapWaiting.plans.records }
  have hswap : exec .swapResolution swapWaiting = .next u := exec_swapResolution_due swapWaiting_due
  have hsame : exec (.quietTimeout 0) swapWaiting = exec (.quietTimeout 0) u :=
    (h swapWaiting 0 rfl rfl).1 u (.quietTimeout 0) swapWaiting_due swapWaiting_store hswap (.inr (.inr (.inr rfl)))
  rw [exec_quietTimeout_notDue rfl, exec_quietTimeout_notDue rfl] at hsame
  have hstate : swapWaiting = u := Host.Outcome.next.inj hsame
  have hsettled : u.store.standbyBank.state ≠ .swapPending :=
    resolveSwap_settles swapWaiting_store (records := swapWaiting.plans.records)
  rw [← hstate] at hsettled
  exact hsettled rfl

end Sys2Proof.Machine
end

section
/-! PROOFS. The play of samples and the write gate. -/

namespace Sys2Proof.Machine

/-! ### What a sample sends (R64, R65, R89) -/

section
variable {s : State} {v : HeadValues} (hv : s.seq.captured = some v)
include hv

/-- A value sent is a change of laser output to its code. -/
theorem emit_eq (r : Record) (value : Nat) : s.emit r value = { s with
    seq := { s.seq with laser := .on r.head (levelCode v value) },
    drive := { s.drive with sent := s.drive.sent ++ DriveSent s r.head (levelCode v value) } } := by
  unfold State.emit
  rw [hv]
  exact setLaser_on s r.head (levelCode v value)

/-- A sample of preheat or tail: its position and its code. -/
theorem playSample_unmonitored (r : Record) (p : Profile) {ph : Phase} (hph : ph ≠ .write) (g k : Nat) {code : Nat}
    (hcode : code = levelCode v (sampleValue s.store.activeBank p ph g k)) :
    s.playSample r p ph g k = { s with
      seq := { s.seq with laser := .on r.head code, position := some { phase := ph, segment := g, sample := some k } },
      drive := { s.drive with sent := s.drive.sent ++ DriveSent s r.head code } } := by
  let u : State := { s with seq := { s.seq with position := some { phase := ph, segment := g, sample := some k } } }
  have hemit := emit_eq (s := u) hv r (sampleValue s.store.activeBank p ph g k)
  rw [hcode]
  cases ph with
  | write => exact absurd rfl hph
  | preheat => exact hemit
  | tail => exact hemit

/-- A sample of the write: its position, its code, its target and its references. -/
theorem playSample_write (r : Record) (p : Profile) (g k : Nat) {sample code target low high : Nat}
    (hsample : sample = sampleValue s.store.activeBank p .write g k) (hcode : code = levelCode v sample)
    (htarget : target = s.config.writeReference * sample / 255) (hlow : low = target - s.config.monitorWindow)
    (hhigh : high = min (target + s.config.monitorWindow) 255) :
    s.playSample r p .write g k = { s with
      burst := s.burst.map (fun b => { b with sampling := true, target := target }),
      seq := { s.seq with laser := .on r.head code, position := some { phase := .write, segment := g, sample := some k } },
      drive := { sent := s.drive.sent ++ DriveSent s r.head code ++ PairSent s low high,
                 references := some (low, high) } } := by
  let u : State := { s with seq := { s.seq with position := some { phase := .write, segment := g, sample := some k } } }
  have hplay : s.playSample r p .write g k = (u.emit r sample).monitorSample sample := by rw [hsample]; rfl
  rw [hplay, emit_eq (s := u) hv r sample, ← hcode, State.monitorSample, setReferences_eq, hhigh, hlow, htarget]
  rfl

end

/-! ### The rise of WGATE (Table 4-3) -/

section
variable {s : State} (hg : s.pins.wgate = false)
include hg

/-- A rise at a station with no plan to take it is a stray gate (R84, R85). -/
theorem exec_wgateRise_stray (hr : s.pins.rstn = true)
    (h : s.station = .halted ∨ State.currentRecord s = none) :
    exec .wgateRise s = .next (State.strayGate { s with pins := { s.pins with wgate := true } }) := by
  have hlow : ¬ s.pins.wgate = true := by simp [hg]
  have hhigh : ¬ (!s.pins.rstn) = true := by simp [hr]
  refine congrArg _ ((if_neg hlow).trans ((if_neg hhigh).trans ?_))
  by_cases hst : s.station = .halted
  · exact if_pos hst
  · have hnone : State.currentRecord { s with pins := { s.pins with wgate := true } } = none := h.resolve_left hst
    refine (if_neg hst).trans ?_
    rw [hnone]

theorem exec_wgateRise_plan {r : Record} (h : Executing s r) : exec .wgateRise s
    = .next (State.planGateRise { s with pins := { s.pins with wgate := true } } r) := by
  have hcur : State.currentRecord { s with pins := { s.pins with wgate := true } } = some r := h.current
  obtain ⟨hr, hst, -⟩ := h
  have hlow : ¬ s.pins.wgate = true := by simp [hg]
  have hhigh : ¬ (!s.pins.rstn) = true := by simp [hr]
  refine congrArg _ ((if_neg hlow).trans ((if_neg hhigh).trans ((if_neg hst).trans ?_)))
  rw [hcur]

end

section
variable (s : State) {r : Record}

theorem planGateRise_ready (h : r.state = .ready) {p : Profile} (hp : s.seq.profile = some p) :
    s.planGateRise r = s.startWrite r p := by
  simp [State.planGateRise, h, hp]

theorem planGateRise_clash (h : r.state = .paused .ready) : s.planGateRise r = s.clash r := by
  simp [State.planGateRise, h]

theorem planGateRise_preheat (h : r.state = .preheat ∨ r.state = .paused .preheat) :
    s.planGateRise r = s.assertWfault.endPlan r .coldWrite (some s.now) := by
  rcases h with h | h <;> simp [State.planGateRise, h]

theorem planGateRise_calibrating (h : r.state = .calibrating) :
    s.planGateRise r = s.assertWfault.endPlan r .interrupted (some s.now) := by
  simp [State.planGateRise, h]

theorem planGateRise_tail (h : r.state = .tail) : s.planGateRise r = s.strayGate := by
  simp [State.planGateRise, h]

end

/-- Settles O37. -/
theorem wgateRiseByPlanState : Obligations.WgateRiseByPlanState := by
  refine ⟨fun s r p v sample target code low high hg hex hst hp hv hsample hcode htarget hlow hhigh => ?_,
    fun s u r o hg hex hburst hcase hu => ?_, fun s hg hr h => ?_⟩
  · let u : State := { s with pins := { s.pins with wgate := true } }
    refine (exec_wgateRise_plan hg hex).trans (congrArg _ ((planGateRise_ready u hst (p := p) hp).trans ?_))
    let w : State := { s with
      pins := { s.pins with wgate := true },
      plans := s.plans.update r.tag (fun x => { x with state := .writing }),
      burst := some (Burst.opened r), seq := { s.seq with firstStep := true } }
    have hboundary : r.length / 4 = 1 * r.length / 4 := by rw [Nat.one_mul]
    refine (playSample_write (s := w) hv r p 0 0 hsample hcode htarget hlow hhigh).trans ?_
    rw [hboundary]
    rfl
  · have hfault : State.assertWfault { s with pins := { s.pins with wgate := true } } = u := by
      rw [hu, State.assertWfault, Bool.or_true]
    have hqueued : r.state ≠ .queued := by
      rcases hcase with ⟨-, h | h⟩ | ⟨-, h⟩ | ⟨-, h⟩ <;> simp [h]
    have hends : exec .wgateRise s = .next (u.endPlan r o (some s.now)) := by
      rw [exec_wgateRise_plan hg hex, ← hfault]
      rcases hcase with ⟨rfl, h⟩ | ⟨rfl, h⟩ | ⟨rfl, h⟩
      · rw [planGateRise_preheat _ h]
        rfl
      · rw [planGateRise_clash _ h]
        rfl
      · rw [planGateRise_calibrating _ h]
        rfl
    have hnone : u.burst = none := by rw [hu]; exact hburst
    exact ⟨_, hends, by rw [hu] at hnone ⊢; exact endPlan_planEnded _ r o _ none none hqueued (noCorrection_none hnone)⟩
  · have hstray : exec .wgateRise s = .next (State.strayGate { s with pins := { s.pins with wgate := true } }) := by
      rcases h with h | h | ⟨r, hex, h⟩
      · exact exec_wgateRise_stray hg hr (.inr (by simp [State.currentRecord, h]))
      · exact exec_wgateRise_stray hg hr (.inl h)
      · rw [exec_wgateRise_plan hg hex, planGateRise_tail _ h]
    rw [hstray, State.strayGate, State.writeFault, State.assertWfault, writeFault_eq, Bool.or_true]
    rfl

end Sys2Proof.Machine
end

section
/-! PROOFS. The tail, and the fall of WGATE. -/

namespace Sys2Proof.Machine

/-- A record enters a tail that has a segment: its first sample plays, the monitor no longer samples (R75). -/
theorem enterTail_plays {s : State} {v : HeadValues} (hv : s.seq.captured = some v) (r : Record) {p : Profile} {d : Nat}
    {ds : List Nat} (hp : p.tail = d :: ds) (ovr : Option Time) {code : Nat}
    (hcode : code = levelCode v
      (Memory.read s.store.activeBank.samples (s.store.activeBank.descriptor d).first).toNat) :
    s.enterTail r p ovr = { s with
      plans := s.plans.update r.tag
        (fun x => { x with state := .tail, cancel := if ovr.isSome then none else r.cancel }),
      burst := s.burst.map (fun b => { b with sampling := false }),
      seq := { s.seq with firstStep := false, overrun := ovr, laser := .on r.head code,
                          position := some { phase := .tail, segment := 0, sample := some 0 } },
      drive := { s.drive with sent := s.drive.sent ++ DriveSent s r.head code } } := by
  let u : State := { s with
    plans := s.plans.update r.tag (fun x => { x with state := .tail, cancel := if ovr.isSome then none else r.cancel }),
    burst := s.burst.map (fun b => { b with sampling := false }),
    seq := { s.seq with firstStep := false, overrun := ovr } }
  let r' : Record := { r with state := .tail, cancel := if ovr.isSome then none else r.cancel }
  have hne : p.tail ≠ [] := by rw [hp]; exact List.cons_ne_nil d ds
  have hvalue : sampleValue u.store.activeBank p .tail 0 0
      = (Memory.read s.store.activeBank.samples (s.store.activeBank.descriptor d).first).toNat := by
    rw [sampleValue, segmentOf, Profile.segments, hp]
    rfl
  have hplays : s.enterTail r p ovr = u.playSample r' p .tail 0 0 := if_neg hne
  rw [hplays]
  exact playSample_unmonitored (s := u) hv r' p (by decide) 0 0 (by rw [hvalue, hcode])

section
variable {s : State} (hg : s.pins.wgate = true)
include hg

/-- A fall with no plan to take it releases WFAULT (R83). -/
theorem exec_wgateFall_idle (hr : s.pins.rstn = true) (h : s.station = .halted ∨ s.currentRecord = none) :
    exec .wgateFall s = .next
      { s with pins := { s.pins with wgate := false }, seq := { s.seq with wfault := false } } := by
  have hhigh : ¬ (!s.pins.wgate) = true := by simp [hg]
  have hup : ¬ (!s.pins.rstn) = true := by simp [hr]
  refine congrArg _ ((if_neg hhigh).trans ((if_neg hup).trans ?_))
  by_cases hst : s.station = .halted
  · exact if_pos hst
  · have hnone : State.currentRecord { s with pins := { s.pins with wgate := false } } = none := h.resolve_left hst
    refine (if_neg hst).trans ?_
    rw [hnone]
    rfl

theorem exec_wgateFall_plan {r : Record} (h : Executing s r) : exec .wgateFall s = .next (State.planGateFall
    { s with pins := { s.pins with wgate := false }, seq := { s.seq with wfault := false } } r) := by
  have hcur : State.currentRecord { s with pins := { s.pins with wgate := false } } = some r := h.current
  obtain ⟨hr, hst, -⟩ := h
  have hhigh : ¬ (!s.pins.wgate) = true := by simp [hg]
  have hup : ¬ (!s.pins.rstn) = true := by simp [hr]
  refine congrArg _ ((if_neg hhigh).trans ((if_neg hup).trans ((if_neg hst).trans ?_)))
  rw [hcur]
  rfl

end

theorem planGateFall_writing (s : State) {r : Record} (h : r.state = .writing ∨ r.state = .paused .writing) {p : Profile}
    (hp : s.seq.profile = some p) : s.planGateFall r = s.enterTail r p none := by
  rcases h with h | h <;> simp [State.planGateFall, h, hp]

theorem planGateFall_other (s : State) {r : Record} (h : r.state ≠ .writing) (hpaused : r.state ≠ .paused .writing) :
    s.planGateFall r = s := by
  unfold State.planGateFall
  split
  · rename_i hst _
    exact absurd hst h
  · rename_i hst _
    exact absurd hst hpaused
  · rfl

/-- Settles O38. -/
theorem wgateFallEndsTheWrite : Obligations.WgateFallEndsTheWrite := by
  refine ⟨fun s hg hr h => ?_, fun s r p v d ds code hg hex hst hp hv htail hcode => ?_,
    fun s u r p report hg hex hst hp htail hcancel hreport hu => ?_⟩
  · rcases h with h | h | ⟨r, hex, hwrite, hpaused⟩
    · exact exec_wgateFall_idle hg hr (.inr (by simp [State.currentRecord, h]))
    · exact exec_wgateFall_idle hg hr (.inl h)
    · rw [exec_wgateFall_plan hg hex, planGateFall_other _ hwrite hpaused]
  · let u : State := { s with pins := { s.pins with wgate := false }, seq := { s.seq with wfault := false } }
    refine (exec_wgateFall_plan hg hex).trans (congrArg _ ((planGateFall_writing u hst (p := p) hp).trans ?_))
    exact enterTail_plays (s := u) hv r htail none hcode
  · have hfall : exec .wgateFall s = .next (u.enterTail r p none) := by
      rw [exec_wgateFall_plan hg hex, ← hu, planGateFall_writing u hst (by rw [hu]; exact hp)]
    exact endsPlan_of_enterTail htail (by rw [hreport, hu]) hfall

end Sys2Proof.Machine
end

section
/-! PROOFS. The servo gate: pauses, clashes and what goes on after a pause. -/

namespace Sys2Proof.Machine

/-! ### Records changed by their tag -/

theorem find_update {q : PlanQueue} {t : Tag} {r : Record} (h : q.find t = some r) {g : Record → Record}
    (hg : ∀ x, (g x).tag = x.tag) : (q.update t g).find t = some (g r) := by
  have hkept : ∀ x : Record, (if x.tag = t then g x else x).tag = x.tag := fun x => by
    by_cases hx : x.tag = t
    · rw [if_pos hx, hg]
    · rw [if_neg hx]
  have htag : r.tag = t := by
    have hr := List.find?_some h
    simpa using hr
  unfold PlanQueue.find PlanQueue.update at *
  rw [List.find?_map]
  simp only [Function.comp_def, hkept, h, Option.map_some, htag, if_true]

theorem update_update (q : PlanQueue) (t : Tag) {f : Record → Record} (g : Record → Record)
    (hf : ∀ x, (f x).tag = x.tag) : (q.update t f).update t g = q.update t (fun x => g (f x)) := by
  unfold PlanQueue.update
  simp only [List.map_map]
  congr 1
  refine List.map_congr_left fun x _ => ?_
  by_cases hx : x.tag = t <;> simp [hx, hf]

/-- The ending of a plan leaves nothing of the state its record had before. -/
theorem planEnded_of_update {s t : State} {r : Record} {o : PlanOutcome} {fault : Option Time} {report : Option Report}
    {cal : Option CalResult} {st : RecordState} (h : PlanEnded
      { s with plans := s.plans.update r.tag (fun x => { x with state := st }) } r o fault report cal t) :
    PlanEnded s r o fault report cal t := by
  obtain ⟨hstate, hplans, hoff⟩ := h
  refine ⟨hstate, hplans.trans ?_, hoff⟩
  simp only [PlanQueue.update, List.map_map]
  congr 1
  refine List.map_congr_left fun x _ => ?_
  by_cases hx : x.tag = r.tag
  · simp only [Function.comp_apply, if_pos hx] <;> rfl
  · simp only [Function.comp_apply, if_neg hx]

/-! ### Pauses (R71) -/

theorem pause_eq {s : State} {v : HeadValues} (hv : s.seq.captured = some v) (r : Record) (p : Profile) (m : PauseFrom)
    {code : Nat} (hcode : code = levelCode v p.hold) : s.pause r p m = { s with
      plans := s.plans.update r.tag (fun x => { x with state := .paused m }),
      burst := s.burst.map (fun b => { b with sampling := false }),
      seq := { s.seq with laser := .on r.head code },
      drive := { s.drive with sent := s.drive.sent ++ DriveSent s r.head code } } := by
  let u : State := { s with plans := s.plans.update r.tag (fun x => { x with state := .paused m }) }
  have hemit := emit_eq (s := u) hv r p.hold
  rw [hcode]
  exact congrArg State.monitorStops hemit

theorem exec_sgateRise_plan {s : State} (hg : s.pins.sgate = false) {r : Record} (h : Executing s r) :
    exec .sgateRise s = .next (State.planServoRise { s with pins := { s.pins with sgate := true } } r) := by
  have hcur : State.currentRecord { s with pins := { s.pins with sgate := true } } = some r := h.current
  have hlow : ¬ s.pins.sgate = true := by simp [hg]
  refine congrArg _ ((if_neg hlow).trans ((if_pos h.takesEvents).trans ?_))
  rw [hcur]

section
variable (s : State) {r : Record} {p : Profile} (hp : s.seq.profile = some p)
include hp

theorem planServoRise_pauses {m : PauseFrom} (h : m = .preheat ∧ r.state = .preheat
    ∨ m = .ready ∧ r.state = .ready ∧ s.pins.wgate = false ∨ m = .writing ∧ r.state = .writing ∧ s.seq.firstStep = false) :
    s.planServoRise r = s.pause r p m := by
  rcases h with ⟨rfl, h⟩ | ⟨rfl, h, hgate⟩ | ⟨rfl, h, hfirst⟩
  · simp [State.planServoRise, h, hp]
  · simp [State.planServoRise, h, hp, hgate]
  · simp [State.planServoRise, h, hp, hfirst]

theorem planServoRise_clash (h : r.state = .ready ∧ s.pins.wgate = true ∨ r.state = .writing ∧ s.seq.firstStep = true) :
    s.planServoRise r = s.clash r := by
  rcases h with ⟨h, hgate⟩ | ⟨h, hfirst⟩
  · simp [State.planServoRise, h, hp, hgate]
  · simp [State.planServoRise, h, hp, hfirst]

end

/-! ### What goes on after a pause (R72) -/

/-- A station whose pause ends with the fall of SGATE: its record goes on in a state. -/
def resumed (s : State) (r : Record) (st : RecordState) : State :=
  { s with pins := { s.pins with sgate := false },
           plans := s.plans.update r.tag (fun x => { x with state := st }) }

theorem exec_sgateFall_plan {s : State} (hg : s.pins.sgate = true) {r : Record} (h : Executing s r) :
    exec .sgateFall s = .next (State.planServoFall { s with pins := { s.pins with sgate := false } } r) := by
  have hcur : State.currentRecord { s with pins := { s.pins with sgate := false } } = some r := h.current
  have hhigh : ¬ (!s.pins.sgate) = true := by simp [hg]
  refine congrArg _ ((if_neg hhigh).trans ((if_pos h.takesEvents).trans ?_))
  rw [hcur]

section
variable {s : State} (hg : s.pins.sgate = true) {r : Record} (hex : Executing s r)
include hg hex

theorem exec_sgateFall_ready (h : r.state = .paused .ready) : exec .sgateFall s = .next (resumed s r .ready) := by
  refine (exec_sgateFall_plan hg hex).trans (congrArg _ ?_)
  simp [State.planServoFall, h, State.updateRecord, resumed]

theorem exec_sgateFall_preheat (h : r.state = .paused .preheat) {p : Profile} {pos : Position}
    (hp : s.seq.profile = some p) (hpos : s.seq.position = some pos) : exec .sgateFall s
      = .next ((resumed s r .preheat).advancePreheat { r with state := .preheat } p pos) := by
  refine (exec_sgateFall_plan hg hex).trans (congrArg _ ?_)
  simp [State.planServoFall, h, hp, hpos, State.updateRecord, resumed]

theorem exec_sgateFall_writing (h : r.state = .paused .writing) {p : Profile} {pos : Position}
    (hp : s.seq.profile = some p) (hpos : s.seq.position = some pos) : exec .sgateFall s
      = .next ((resumed s r .writing).advanceWrite { r with state := .writing } p pos) := by
  refine (exec_sgateFall_plan hg hex).trans (congrArg _ ?_)
  simp [State.planServoFall, h, hp, hpos, State.updateRecord, resumed]

end

/-! ### The next sample (R67) -/

theorem nextSample_within {b : Bank} {p : Profile} {pos : Position} {k : Nat} (hk : pos.sample = some k)
    (h : k + 1 < (segmentOf b p pos.phase pos.segment).count) : nextSample b p pos = some (pos.segment, k + 1) := by
  simp only [nextSample, hk, if_pos h]

theorem segmentEnded_within {b : Bank} {p : Profile} {pos : Position} {k : Nat} (hk : pos.sample = some k)
    (h : k + 1 < (segmentOf b p pos.phase pos.segment).count) : segmentEnded b p pos = false := by
  simp only [segmentEnded, hk, decide_eq_false_iff_not]
  omega

theorem nextSample_passEnd {b : Bank} {p : Profile} {pos : Position} {k : Nat} (hk : pos.sample = some k)
    (hph : pos.phase = .write) (hseg : pos.segment = 0) (h : (b.descriptor p.write).count ≤ k + 1) :
    nextSample b p pos = none := by
  have hcount : ¬ k + 1 < (segmentOf b p pos.phase pos.segment).count := by
    rw [hph, hseg]
    exact Nat.not_lt.2 h
  have hlast : ¬ pos.segment + 1 < (p.segments pos.phase).length := by
    rw [hph, hseg]
    exact Nat.lt_irrefl 1
  simp only [nextSample, hk, if_neg hcount, if_neg hlast]

theorem segmentOf_preheat {b : Bank} {p : Profile} {g d : Nat} (h : p.preheat[g]? = some d) :
    segmentOf b p .preheat g = b.descriptor d := by
  rw [segmentOf, Profile.segments, List.getD_eq_getElem?_getD, h, Option.getD_some]

section
variable {s : State} {r : Record} {p : Profile} {pos : Position} {k : Nat} (hk : pos.sample = some k)
include hk

theorem advancePreheat_next (h : k + 1 < (segmentOf s.store.activeBank p pos.phase pos.segment).count) :
    s.advancePreheat r p pos = s.playSample r p .preheat pos.segment (k + 1) := by
  have hgoes : ¬ (segmentEnded s.store.activeBank p pos && decide (r.cancel = some .segmentEnd)) = true := by
    simp [segmentEnded_within hk h]
  refine (if_neg hgoes).trans ?_
  rw [nextSample_within hk h]

theorem advanceWrite_next (h : k + 1 < (segmentOf s.store.activeBank p pos.phase pos.segment).count) :
    s.advanceWrite r p pos = s.playSample r p .write pos.segment (k + 1) := by
  unfold State.advanceWrite
  rw [nextSample_within hk h]

/-- After the last sample of a pass the write goes on with the first again (R67). -/
theorem advanceWrite_pass (hph : pos.phase = .write) (hseg : pos.segment = 0)
    (hcancel : r.cancel ≠ some .segmentEnd ∨ k + 1 < (s.store.activeBank.descriptor p.write).count) {next : Nat}
    (hnext : next = if k + 1 < (s.store.activeBank.descriptor p.write).count then k + 1 else 0) :
    s.advanceWrite r p pos = s.playSample r p .write 0 next := by
  by_cases h : k + 1 < (s.store.activeBank.descriptor p.write).count
  · have hwithin : k + 1 < (segmentOf s.store.activeBank p pos.phase pos.segment).count := by rw [hph, hseg]; exact h
    rw [advanceWrite_next hk hwithin, hseg, hnext, if_pos h]
  · unfold State.advanceWrite
    rw [nextSample_passEnd hk hph hseg (Nat.not_lt.1 h), hnext, if_neg h]
    exact if_neg (hcancel.resolve_right h)

/-- A SEGMENT_END cancel ends the write after the last sample of a pass (R56). -/
theorem advanceWrite_cancelled (hph : pos.phase = .write) (hseg : pos.segment = 0)
    (hcancel : r.cancel = some .segmentEnd) (h : (s.store.activeBank.descriptor p.write).count ≤ k + 1) :
    s.advanceWrite r p pos = s.assertWfault.enterTail r p none := by
  unfold State.advanceWrite
  rw [nextSample_passEnd hk hph hseg h]
  exact if_pos hcancel

end

end Sys2Proof.Machine
end

section
/-! PROOFS. The servo gate: its rise and its fall. -/

namespace Sys2Proof.Machine

/-- Two states with one queue of plans and the rest alike are one. -/
theorem state_eq_of_plans {s t : State} (hplans : s.plans = t.plans) (h : { s with plans := t.plans } = t) : s = t := by
  rw [← h, ← hplans]

theorem endsPlan_of_resumed {c : Instr} {s u : State} {r : Record} {o : PlanOutcome} {fault : Option Time}
    {report : Option Report} {cal : Option CalResult} {st : RecordState} (h : EndsPlan c s
      { u with plans := u.plans.update r.tag (fun x => { x with state := st }) } r o fault report cal) :
    EndsPlan c s u r o fault report cal := by
  obtain ⟨t, ht, hended, hclean⟩ := h
  exact ⟨t, ht, planEnded_of_update hended, hclean⟩

/-- What takes a paused preheat on is the end of the frozen sample's step. -/
theorem exec_profileStepEnd_preheat {s : State} {r : Record} (hex : Executing s r)
    {p : Profile} {pos : Position} (hp : s.seq.profile = some p) (hpos : s.seq.position = some pos) :
    exec (.profileStepEnd s.pins.monlo s.pins.monhi) (resumed s r .preheat)
      = .next ((resumed s r .preheat).advancePreheat { r with state := .preheat } p pos) := by
  have hevents : (resumed s r .preheat).takesEvents = true := hex.takesEvents
  obtain ⟨-, -, hcurrent, hfind⟩ := hex
  have hrecord : State.currentRecord (resumed s r .preheat) = some { r with state := .preheat } := by
    have hfind' : (resumed s r .preheat).plans.find r.tag = some { r with state := .preheat } :=
      find_update hfind (fun _ => rfl)
    have hcurrent' : (resumed s r .preheat).seq.current = some r.tag := hcurrent
    rw [State.currentRecord, hcurrent', Option.bind_some, hfind']
  have hp' : (resumed s r .preheat).seq.profile = some p := hp
  have hpos' : (resumed s r .preheat).seq.position = some pos := hpos
  have hlines : (resumed s r .preheat).setMonitorLines s.pins.monlo s.pins.monhi = resumed s r .preheat := rfl
  simp only [exec, execProfileStepEnd, hlines, hevents, if_true, hrecord, hp', hpos', State.profileStep]

/-- Settles O39. -/
theorem sgatePausesAndResumes : Obligations.SgatePausesAndResumes := by
  refine ⟨fun s r p v m code hg hex hp hv hcase hcode => ?_, fun s u r p report hg hex hp hreport hcase hu => ?_,
    fun s r hg hex h => exec_sgateFall_ready hg hex h, fun s u r p pos hg hex hp hpos h hu => ?_,
    fun s r p v pos k d m sample code hg hex hp hv hpos hk hcase hcount hsample hcode => ?_,
    fun s r p v pos k hg hex hp hv hpos hk h hph hseg => ⟨?_, fun hcancel hcount => ⟨?_, ?_⟩⟩⟩
  · let u : State := { s with pins := { s.pins with sgate := true } }
    refine (exec_sgateRise_plan hg hex).trans (congrArg _ ((planServoRise_pauses u (p := p) hp hcase).trans ?_))
    exact pause_eq (s := u) hv r p m hcode
  · let w : State := { s with pins := { s.pins with sgate := true } }
    have hqueued : r.state ≠ .queued := by rcases hcase with ⟨h, -⟩ | ⟨h, -⟩ <;> simp [h]
    have hrise : exec .sgateRise s = .next (u.endPlan r .servoClash (some s.now)) := by
      refine (exec_sgateRise_plan hg hex).trans (congrArg _ ((planServoRise_clash w (p := p) hp hcase).trans ?_))
      rw [hu]
      rfl
    exact endsPlan_of_endPlan hqueued (by rw [hreport, hu]) hrise
  · rw [exec_sgateFall_preheat hg hex h hp hpos, hu]
    exact (exec_profileStepEnd_preheat hex hp hpos).symm
  · rcases hcase with ⟨rfl, hph, hst, hd⟩ | ⟨rfl, hph, hst, hseg, hd⟩
    · let u := resumed s r .preheat
      let r' : Record := { r with state := .preheat }
      have hvalue : sampleValue s.store.activeBank p pos.phase pos.segment (k + 1) = sample := by
        rw [sampleValue, hph, segmentOf_preheat hd, hsample]
      have hwithin : k + 1 < (segmentOf s.store.activeBank p pos.phase pos.segment).count := by
        rw [hph, segmentOf_preheat hd]
        exact hcount
      have hnext : u.advancePreheat r' p pos = u.playSample r' p pos.phase pos.segment (k + 1) := by
        rw [advancePreheat_next (s := u) hk hwithin, hph]
      have hplay := playSample_unmonitored (s := u) hv r' p (ph := pos.phase) (by rw [hph]; decide) pos.segment (k + 1)
        (code := code) (by rw [hcode, ← hvalue] <;> rfl)
      exact ⟨_, (exec_sgateFall_preheat hg hex hst hp hpos).trans (congrArg _ (hnext.trans hplay)), rfl,
        fun _ => ⟨rfl, rfl⟩, fun hm => (nomatch hm)⟩
    · let u := resumed s r .writing
      let r' : Record := { r with state := .writing }
      have hvalue : sample = sampleValue s.store.activeBank p .write 0 (k + 1) := by
        rw [hsample, ← hd]
        rfl
      have hwithin : k + 1 < (segmentOf s.store.activeBank p pos.phase pos.segment).count := by
        rw [hph, hseg]
        rw [← hd] at hcount
        exact hcount
      have hnext : u.advanceWrite r' p pos = u.playSample r' p .write 0 (k + 1) := by
        rw [advanceWrite_next (s := u) hk hwithin, hseg]
      have hposition : ({ phase := .write, segment := 0, sample := some (k + 1) } : Position)
          = { pos with sample := some (k + 1) } := by rw [← hph, ← hseg]
      have hplay := playSample_write (s := u) hv r' p 0 (k + 1) hvalue hcode rfl rfl rfl
      rw [hposition] at hplay
      exact ⟨_, (exec_sgateFall_writing hg hex hst hp hpos).trans (congrArg _ (hnext.trans hplay)), rfl,
        fun hm => (nomatch hm), fun _ => rfl⟩
  · intro next sample target code low high hcancel hnext hsample hcode htarget hlow hhigh
    let u := resumed s r .writing
    refine (exec_sgateFall_writing hg hex h hp hpos).trans (congrArg _ ?_)
    refine (advanceWrite_pass (s := u) (r := { r with state := .writing }) hk hph hseg hcancel hnext).trans ?_
    exact playSample_write (s := u) hv { r with state := .writing } p 0 next hsample hcode htarget hlow hhigh
  · intro d ds code htail hcode
    let u := resumed s r .writing
    refine (exec_sgateFall_writing hg hex h hp hpos).trans (congrArg _ ?_)
    refine (advanceWrite_cancelled (s := u) (r := { r with state := .writing }) hk hph hseg hcancel hcount).trans ?_
    refine (enterTail_plays (s := u.assertWfault) hv { r with state := .writing } htail none hcode).trans ?_
    have hplans : (s.plans.update r.tag (fun x => { x with state := .writing })).update r.tag
          (fun x => { x with state := .tail, cancel := r.cancel })
        = s.plans.update r.tag (fun x => { x with state := .tail, cancel := some .segmentEnd }) := by
      rw [hcancel]
      exact update_update s.plans r.tag _ (f := fun x => { x with state := .writing }) (fun _ => rfl)
    exact state_eq_of_plans hplans rfl
  · intro u report htail hreport hu
    let w := resumed s r .writing
    have hfall : exec .sgateFall s = .next (w.assertWfault.enterTail { r with state := .writing } p none) :=
      (exec_sgateFall_writing hg hex h hp hpos).trans (congrArg _
        (advanceWrite_cancelled (s := w) (r := { r with state := .writing }) hk hph hseg hcancel hcount))
    have hends := endsPlan_of_enterTail (s := s) (u := w.assertWfault) (report := report) htail hreport hfall
    have houtcome : (if Option.isSome (none : Option Time) = true then PlanOutcome.overrun
        else if r.cancel = some .segmentEnd then .cancelled else .done) = .cancelled := if_pos hcancel
    have hended : EndsPlan .sgateFall s w.assertWfault r .cancelled none report none := houtcome ▸ hends
    rw [hu]
    exact endsPlan_of_resumed hended

end Sys2Proof.Machine
end

section
/-! PROOFS. The commands that end the current plan at once. -/

namespace Sys2Proof.Machine

/-! ### RAIL_ALERT, the write-start deadline and the window end -/

section
variable {s : State} {r : Record} (hex : Executing s r)
include hex

theorem exec_railAlertRise_plan : exec .railAlertRise s = .next (State.endPlan
    { s with pins := { s.pins with railAlert := true }, seq := { s.seq with wfault := s.seq.wfault || s.pins.wgate } }
    r .rail (some s.now)) := by
  have hcur : State.currentRecord { s with pins := { s.pins with railAlert := true } } = some r := hex.current
  refine congrArg _ ((if_pos hex.takesEvents).trans ?_)
  rw [hcur]
  rfl

theorem exec_writeStartDeadline_plan {p : Profile} (hp : s.seq.profile = some p)
    (hst : r.state = .preheat ∨ r.state = .ready ∨ r.state = .paused .preheat ∨ r.state = .paused .ready)
    (ht : timeBefore s.now (writeStartDeadlineOf s.config r p) = false) :
    exec .writeStartDeadline s = .next (s.endPlan r .missed (some s.now)) := by
  have hbefore : (s.takesEvents && r.beforeWrite) = true := by
    rw [hex.takesEvents]
    rcases hst with h | h | h | h <;> simp [Record.beforeWrite, h]
  simp only [exec, execWriteStartDeadline, hex.current, hp, hbefore, if_true, atTime_reached s _ _ ht]

theorem exec_windowEndReached_plan (hst : r.state = .tail) (ht : timeBefore s.now r.windowEnd = false) :
    exec .windowEndReached s = .next (s.endTail r) := by
  have htail : (s.takesEvents && decide (r.state = .tail)) = true := by
    rw [hex.takesEvents, hst]
    rfl
  simp only [exec, execWindowEndReached, hex.current, htail, if_true, atTime_reached s _ _ ht]

end

/-- The outcome a tail was entered for (R75, R76, R56). -/
def tailOutcome (s : State) (r : Record) : PlanOutcome :=
  if s.seq.overrun.isSome then .overrun else if r.cancel = some .segmentEnd then .cancelled else .done

theorem endTail_eq (s : State) (r : Record) : s.endTail r = s.endPlan r (tailOutcome s r) s.seq.overrun := by
  unfold State.endTail tailOutcome
  cases s.seq.overrun with
  | some stamp => rfl
  | none => by_cases h : r.cancel = some .segmentEnd <;> simp [h]

/-- What holds of the ending of a tail holds for each way in which the tail was entered. -/
theorem tailOutcome_cases {s : State} {r : Record} {C : PlanOutcome → Option Time → Prop}
    (h : C (tailOutcome s r) s.seq.overrun) :
    (∀ stamp, s.seq.overrun = some stamp → C .overrun (some stamp))
    ∧ (s.seq.overrun = none → r.cancel = some .segmentEnd → C .cancelled none)
    ∧ (s.seq.overrun = none → r.cancel ≠ some .segmentEnd → C .done none) := by
  refine ⟨fun stamp ho => ?_, fun ho hc => ?_, fun ho hc => ?_⟩
  · rw [tailOutcome, ho] at h
    exact h
  · rw [tailOutcome, ho, hc] at h
    exact h
  · have hdone : tailOutcome s r = .done := by
      rw [tailOutcome, ho]
      exact if_neg hc
    rwa [hdone, ho] at h

/-- The earlier of two times is reached where one of the two is, all within range of the clock (R6). -/
theorem timeEarlier_reached {now a b : Time} (h : timeBefore now a = false ∨ timeBefore now b = false)
    (hlow : -262144 ≤ timeDiff now a) (hhigh : timeDiff now a ≤ 262144) (hab : timeDiff a b ≤ 8192)
    (hba : -8192 ≤ timeDiff a b) : timeBefore now (timeEarlier a b) = false := by
  have hsum : timeDiff now b = timeDiff now a + timeDiff a b := timeDiff_add now a b (by omega) (by omega)
  simp only [timeBefore_false_iff] at h ⊢
  unfold timeEarlier
  by_cases hbefore : timeBefore a b = true
  · rw [if_pos hbefore]
    rw [timeBefore_iff] at hbefore
    omega
  · rw [if_neg hbefore]
    rw [Bool.not_eq_true, timeBefore_false_iff] at hbefore
    omega

theorem not_queued_of_executing {r : Record} (h : r.executing = true) : r.state ≠ .queued := fun hq => by
  simp [Record.executing, hq] at h

/-! ### What follows a report (R86, R95, R96) -/

/-- A marking with a swap due resolves the swap before the endings or leaves it, and draws one free value (R108). -/
theorem afterBurst_swapDue {u : State} {head : Nat} {h : HeadRecord} {m : Report} (hq : QueueSound u)
    (hh : u.heads[head]? = some h) (hd : Distrusts u h m) (hdue : SwapDue u) :
    ∃ v, (v = u ∨ exec .swapResolution u = .next v)
      ∧ u.afterBurst head (some m) = AfterReport { v with free := u.free + 1 } head h m true := by
  obtain ⟨v, hv, hswap⟩ := swapBeforeEndings_due u hdue
  have hheads : v.heads = u.heads := by
    have hframe : u.swapBeforeEndings.heads = u.heads := by simp
    rw [hswap] at hframe
    exact hframe
  refine ⟨v, hv, ?_⟩
  rw [afterBurst_distrusted u head h m hh hd, markSuspect_eq u head h hq hh, hswap, ← hheads]
  rfl

/-- Settles O40. -/
theorem eventsThatEndThePlan : Obligations.EventsThatEndThePlan := by
  refine ⟨fun s r report hex hreport => ⟨fun h => ?_, fun p hp hst hreached _ hab hba hhigh hlow => ?_, fun hst ht => ?_⟩,
    fun s r report hex hreport => ⟨fun h => ?_, fun hst ht => ?_⟩,
    fun u head => ⟨afterBurst_none u head, fun h m suspect hq hh hd =>
      ⟨fun hs => afterBurst_eq u head h m suspect hq hh hd hs, fun hs hdue =>
        afterBurst_swapDue hq hh (hd.1 hs) hdue⟩⟩⟩
  · exact ⟨_, exec_railAlertRise_plan hex,
      endPlan_planEnded _ r .rail _ report none (not_queued_of_executing h) hreport⟩
  · have hqueued : r.state ≠ .queued := by rcases hst with h | h | h | h <;> simp [h]
    exact ⟨_, exec_writeStartDeadline_plan hex hp hst (timeEarlier_reached hreached hlow hhigh hab hba),
      endPlan_planEnded s r .missed _ report none hqueued hreport⟩
  · have hqueued : r.state ≠ .queued := by simp [hst]
    refine ⟨_, exec_windowEndReached_plan hex hst ht, ?_⟩
    rw [endTail_eq]
    refine tailOutcome_cases (C := fun o fault => PlanEnded s r o fault report none _) ?_
    exact endPlan_planEnded s r _ _ report none hqueued hreport
  · obtain ⟨t, ht, hended⟩ := endPlan_ends
      { s with pins := { s.pins with railAlert := true }, seq := { s.seq with wfault := s.seq.wfault || s.pins.wgate } }
      r .rail (some s.now) none (not_queued_of_executing h)
    rw [hreport]
    exact ⟨t, (exec_railAlertRise_plan hex).trans (congrArg _ ht), hended⟩
  · have hqueued : r.state ≠ .queued := by simp [hst]
    obtain ⟨t, ht', hended⟩ := endPlan_ends s r (tailOutcome s r) s.seq.overrun none hqueued
    rw [hreport]
    refine ⟨t, ?_, tailOutcome_cases (C := fun o fault => PlanEnded s r o fault _ none t) hended⟩
    rw [exec_windowEndReached_plan hex hst ht, endTail_eq, ht']

end Sys2Proof.Machine
end

section
/-! PROOFS. The opening of windows, and the deadlines of a queued record and of a write. -/

namespace Sys2Proof.Machine

/-! ### A window that opens in its turn (R4, R68, R79) -/

section
variable {s : State} {r : Record} (hr : s.pins.rstn = true) (hst : s.station ≠ .halted) (hcur : s.seq.current = none)
  (hfind : s.plans.find r.tag = some r) (hgranted : r.state = .granted) (rail : Bool)
include hfind

theorem exec_writeWindowOpens_early {p : Profile}
    (hp : s.store.activeBank.profile r.zone = some p) (h : ¬ OpensInTurn s (timeMinus r.planStart p.lead)) :
    exec (.writeWindowOpens r.tag rail) s = .next s := by
  have hturn : s.opensFirst (timeMinus r.planStart p.lead) = false := by
    rw [Bool.eq_false_iff, ne_eq, opensFirst_iff]
    exact h
  simp only [exec, execWriteWindowOpens, hfind, hp, hturn, Bool.and_false, Bool.false_eq_true, if_false]

theorem exec_calWindowOpens_early (h : ¬ OpensInTurn s r.windowStart) : exec (.calWindowOpens r.tag rail) s = .next s := by
  have hturn : s.opensFirst r.windowStart = false := by
    rw [Bool.eq_false_iff, ne_eq, opensFirst_iff]
    exact h
  simp only [exec, execCalWindowOpens, hfind, hturn, Bool.and_false, Bool.false_eq_true, if_false]

include hr hst hcur hgranted

theorem exec_writeWindowOpens_inTurn (hk : r.kind = .write) {p : Profile}
    (hp : s.store.activeBank.profile r.zone = some p)
    (ht : timeBefore s.now (timeMinus r.planStart p.lead) = false)
    (h : OpensInTurn s (timeMinus r.planStart p.lead)) : exec (.writeWindowOpens r.tag rail) s
      = .next (if rail then (s.setRail rail).openRail r else (s.setRail rail).openWrite r p) := by
  have hopens : (s.takesEvents && decide (r.state = .granted) && decide (r.kind = .write) && s.seq.current.isNone
      && s.opensFirst (timeMinus r.planStart p.lead)) = true := by
    rw [(opensFirst_iff s _).2 h, hcur]
    simp [State.takesEvents, hr, hst, hgranted, hk]
  simp only [exec, execWriteWindowOpens, hfind, hp]
  rw [if_pos hopens, atTime_reached s _ _ ht]

theorem exec_calWindowOpens_inTurn (hk : r.kind = .cal) (ht : timeBefore s.now r.windowStart = false)
    (h : OpensInTurn s r.windowStart) : exec (.calWindowOpens r.tag rail) s
      = .next (if rail then (s.setRail rail).openRail r else (s.setRail rail).openCal r) := by
  have hopens : (s.takesEvents && decide (r.state = .granted) && decide (r.kind = .cal) && s.seq.current.isNone
      && s.opensFirst r.windowStart) = true := by
    rw [(opensFirst_iff s _).2 h, hcur]
    simp [State.takesEvents, hr, hst, hgranted, hk]
  simp only [exec, execCalWindowOpens, hfind]
  rw [if_pos hopens, atTime_reached s _ _ ht]

end

theorem headRecord_eq {s : State} {head : Nat} {h : HeadRecord} (hh : s.heads[head]? = some h) :
    s.headRecord head = h := by
  rw [State.headRecord, List.getD_eq_getElem?_getD, hh, Option.getD_some]

theorem capture_eq {s : State} {head : Nat} {h : HeadRecord} (hh : s.heads[head]? = some h) :
    s.capture head = { threshold := h.threshold, write := h.write, trim := h.trim } := by
  rw [State.capture, headRecord_eq hh]

section
variable {s : State} {r : Record} (p : Profile) {h : HeadRecord} (hh : s.heads[r.head]? = some h) {code : Nat}
include hh

/-- A window that opens with SGATE low plays the first preheat sample (R68). -/
theorem openWrite_plays (hg : s.pins.sgate = false)
    (hcode : code = levelCode { threshold := h.threshold, write := h.write, trim := h.trim }
      (Memory.read s.store.activeBank.samples (s.store.activeBank.descriptor (p.preheat.getD 0 0)).first).toNat) :
    s.openWrite r p = { s with
      plans := s.plans.update r.tag (fun x => { x with state := .preheat }),
      seq := { s.seq with
        current := some r.tag, profile := some p, overrun := none, laser := .on r.head code,
        captured := some { threshold := h.threshold, write := h.write, trim := h.trim },
        position := some { phase := .preheat, segment := 0, sample := some 0 } },
      drive := { s.drive with sent := s.drive.sent ++ DriveSent s r.head code } } := by
  let u : State := { s with
    plans := s.plans.update r.tag (fun x => { x with state := .preheat }),
    seq := { s.seq with current := some r.tag, profile := some p, overrun := none,
                        captured := some { threshold := h.threshold, write := h.write, trim := h.trim } } }
  have hlow : ¬ s.pins.sgate = true := by simp [hg]
  have hopen : s.openWrite r p = u.playSample r p .preheat 0 0 := by
    unfold State.openWrite
    rw [capture_eq hh, if_neg hlow]
    rfl
  rw [hopen]
  exact playSample_unmonitored (s := u) rfl r p (by decide) 0 0 hcode

/-- A window that opens with SGATE high is paused before its first sample (R68). -/
theorem openWrite_paused (hg : s.pins.sgate = true)
    (hcode : code = levelCode { threshold := h.threshold, write := h.write, trim := h.trim } p.hold) :
    s.openWrite r p = { s with
      plans := s.plans.update r.tag (fun x => { x with state := .paused .preheat }),
      burst := s.burst.map (fun b => { b with sampling := false }),
      seq := { s.seq with
        current := some r.tag, profile := some p, overrun := none, laser := .on r.head code,
        captured := some { threshold := h.threshold, write := h.write, trim := h.trim },
        position := some { phase := .preheat, segment := 0, sample := none } },
      drive := { s.drive with sent := s.drive.sent ++ DriveSent s r.head code } } := by
  let u : State := { s with
    seq := { s.seq with current := some r.tag, profile := some p, overrun := none,
                        captured := some { threshold := h.threshold, write := h.write, trim := h.trim },
                        position := some { phase := .preheat, segment := 0, sample := none } } }
  have hopen : s.openWrite r p = u.pause r p .preheat := by
    unfold State.openWrite
    rw [capture_eq hh, if_pos hg]
  rw [hopen]
  exact pause_eq (s := u) rfl r p .preheat hcode

end

/-- The search begins at step 1 with trial code 512 (R120, R121). -/
theorem openCal_eq (s : State) (r : Record) : s.openCal r = { s with
    plans := s.plans.update r.tag (fun x => { x with state := .calibrating }),
    seq := { s.seq with current := some r.tag, profile := none, captured := none, overrun := none,
                        laser := .on r.head 512 },
    search := some { tag := r.tag, head := r.head, step := 1, threshold := 0, offset := 0, monlo := 0 },
    drive := { sent := s.drive.sent ++ PairSent s 0 s.config.thresholdReference ++ DriveSent s r.head 512,
               references := some (0, s.config.thresholdReference) } } := by
  let x : Search := { tag := r.tag, head := r.head, step := 1, threshold := 0, offset := 0, monlo := 0 }
  let u : State := { s with
    plans := s.plans.update r.tag (fun x => { x with state := .calibrating }),
    seq := { s.seq with current := some r.tag, profile := none, captured := none, overrun := none }, search := some x }
  have htrial : x.trialCode = 512 := by simp [x, Search.trialCode, Search.candidate, calBit]
  have hopen : s.openCal r = (u.setReferences 0 s.config.thresholdReference).setLaser (.on r.head x.trialCode) := rfl
  rw [hopen, htrial, setReferences_eq, setLaser_on]
  rfl

/-- An opening with RAIL_ALERT asserted (R82). -/
theorem openRail_eq {s : State} {r : Record} (h : r.state = .granted) : s.openRail r = { s with
    seq := { s.seq with wfault := s.seq.wfault || s.pins.wgate },
    plans := { s.plans with
      records := s.plans.records.map (fun x =>
        if x.tag = r.tag then endedRecord x .rail s.now none none (some s.now) true else x),
      finished := s.plans.finished ++ [r.tag] },
    link := { s.link with queue := s.link.queue ++ [.release r.claim r.windowStart] } } := by
  have hlink : s.link.finishing r (some r.windowStart)
      = { s.link with queue := s.link.queue ++ [.release r.claim r.windowStart] } := by
    simp [Link.finishing, h, Link.enqueue]
  have hopen : s.openRail r = { s.assertWfault with
      plans := s.plans.finish r.tag { outcome := .rail, release := some r.windowStart, faultStamp := some s.now } s.now,
      link := s.link.finishing r (some r.windowStart) } := rfl
  rw [hopen, hlink]
  rfl

/-- Settles O41. -/
theorem windowOpensForGrantedRecord : Obligations.WindowOpensForGrantedRecord := by
  intro s r hr hst hcur hfind hgranted
  refine ⟨fun p h code hk hp hh ht hturn => ⟨fun hg hcode => ?_, fun hg hcode => ?_⟩, fun hk ht hturn => ?_,
    fun c hc => ?_, fun rail => ⟨fun _ h => exec_calWindowOpens_early hfind rail h,
      fun p _ hp h => exec_writeWindowOpens_early hfind rail hp h⟩⟩
  · rw [exec_writeWindowOpens_inTurn hr hst hcur hfind hgranted false hk hp ht hturn]
    exact congrArg _ (openWrite_plays (s := s.setRail false) p hh hg hcode)
  · rw [exec_writeWindowOpens_inTurn hr hst hcur hfind hgranted false hk hp ht hturn]
    exact congrArg _ (openWrite_paused (s := s.setRail false) p hh hg hcode)
  · rw [exec_calWindowOpens_inTurn hr hst hcur hfind hgranted false hk ht hturn]
    exact congrArg _ (openCal_eq (s.setRail false) r)
  · have hopens : exec c s = .next ((s.setRail true).openRail r) := by
      rcases hc with ⟨rfl, hk, ht, hturn⟩ | ⟨p, rfl, hk, hp, ht, hturn⟩
      · exact exec_calWindowOpens_inTurn hr hst hcur hfind hgranted true hk ht hturn
      · exact exec_writeWindowOpens_inTurn hr hst hcur hfind hgranted true hk hp ht hturn
    rw [hopens, openRail_eq hgranted]
    rfl

/-! ### The transmit deadline and the write deadline (R46, R76) -/

theorem exec_transmitDeadline_queued {s : State} {r : Record} (hr : s.pins.rstn = true) (hst : s.station ≠ .halted)
    (hfind : s.plans.find r.tag = some r) (hqueued : r.state = .queued)
    (ht : timeBefore s.now (timeMinus r.windowStart 512) = false) :
    exec (.transmitDeadline r.tag) s = .next (s.finish r { outcome := .late }) := by
  have hdue : (s.takesEvents && decide (r.state = .queued)) = true := by
    simp [State.takesEvents, hr, hst, hqueued]
  have hreached : timeBefore s.now (transmitDeadlineOf r) = false := ht
  simp only [exec, execTransmitDeadline, hfind]
  rw [if_pos hdue, atTime_reached s _ _ hreached]

theorem exec_writeDeadline_plan {s : State} {r : Record} (hex : Executing s r)
    (hst : r.state = .writing ∨ r.state = .paused .writing) {p : Profile} (hp : s.seq.profile = some p)
    (ht : timeBefore s.now (timeMinus r.windowEnd p.tailAllowance) = false) : exec .writeDeadline s
      = .next (s.assertWfault.enterTail r p (some s.now)) := by
  have hdue : (s.takesEvents && r.inWrite) = true := by
    rw [hex.takesEvents]
    rcases hst with h | h <;> simp [Record.inWrite, h]
  have hreached : timeBefore s.now (writeDeadlineOf r p) = false := ht
  simp only [exec, execWriteDeadline, hex.current, hp]
  rw [if_pos hdue, atTime_reached s _ _ hreached]

/-- Settles O42. -/
theorem deadlinesOfQueuedAndWriting : Obligations.DeadlinesOfQueuedAndWriting := by
  refine ⟨fun s r hr hst hfind hqueued ht => ?_, fun s r p v d ds code hex hst hp hv htail ht hcode => ?_,
    fun s r p report hex hst hp htail ht hreport => ?_⟩
  · rw [exec_transmitDeadline_queued hr hst hfind hqueued ht, finish_queued hqueued]
    exact ⟨_, rfl, rfl, rfl, rfl, rfl, fun h => ⟨if_pos h, if_pos h⟩, fun h => ⟨if_neg h, if_neg h⟩⟩
  · rw [exec_writeDeadline_plan hex hst hp ht]
    exact congrArg _ (enterTail_plays (s := s.assertWfault) hv r htail (some s.now) hcode)
  · exact endsPlan_of_enterTail (u := s.assertWfault) htail hreport (exec_writeDeadline_plan hex hst hp ht)

end Sys2Proof.Machine
end

section
/-! PROOFS. The end of a profile step. -/

namespace Sys2Proof.Machine

theorem exec_profileStepEnd_plan {s : State} {r : Record} (hex : Executing s r) {p : Profile} {pos : Position}
    (hp : s.seq.profile = some p) (hpos : s.seq.position = some pos) (lo hi : Bool) :
    exec (.profileStepEnd lo hi) s = .next ((s.setMonitorLines lo hi).profileStep r p pos lo hi) := by
  have hcur : (s.setMonitorLines lo hi).currentRecord = some r := hex.current
  have hp' : (s.setMonitorLines lo hi).seq.profile = some p := hp
  have hpos' : (s.setMonitorLines lo hi).seq.position = some pos := hpos
  refine congrArg _ ((if_pos hex.takesEvents).trans ?_)
  rw [hcur, hp', hpos']

/-! ### Segments (R67) -/

section
variable {b : Bank} {p : Profile}

theorem segmentOf_eq {ph : Phase} {g d : Nat} (h : (p.segments ph)[g]? = some d) : segmentOf b p ph g = b.descriptor d := by
  rw [segmentOf, List.getD_eq_getElem?_getD, h, Option.getD_some]

theorem sampleValue_eq {ph : Phase} {g d : Nat} (h : (p.segments ph)[g]? = some d) (k : Nat) :
    sampleValue b p ph g k = (Memory.read b.samples ((b.descriptor d).first + k)).toNat := by
  rw [sampleValue, segmentOf_eq h]

theorem segments_lt {ph : Phase} {g d : Nat} (h : (p.segments ph)[g]? = some d) : g < (p.segments ph).length :=
  (List.getElem?_eq_some_iff.1 h).1

variable {pos : Position} {k d : Nat} (hk : pos.sample = some k) (hd : (p.segments pos.phase)[pos.segment]? = some d)
include hk hd

theorem nextSample_inSegment (h : k + 1 < (b.descriptor d).count) : nextSample b p pos = some (pos.segment, k + 1) :=
  nextSample_within hk (by rw [segmentOf_eq hd]; exact h)

theorem segmentEnded_inSegment (h : k + 1 < (b.descriptor d).count) : segmentEnded b p pos = false :=
  segmentEnded_within hk (by rw [segmentOf_eq hd]; exact h)

theorem segmentEnded_last (h : (b.descriptor d).count ≤ k + 1) : segmentEnded b p pos = true := by
  simp only [segmentEnded, hk, segmentOf_eq hd, decide_eq_true h]

theorem nextSample_nextSegment (h : (b.descriptor d).count ≤ k + 1)
    (hmore : pos.segment + 1 < (p.segments pos.phase).length) : nextSample b p pos = some (pos.segment + 1, 0) := by
  simp only [nextSample, hk, segmentOf_eq hd, if_neg (Nat.not_lt.2 h), if_pos hmore]

theorem nextSample_phaseEnd (h : (b.descriptor d).count ≤ k + 1)
    (hlast : (p.segments pos.phase).length = pos.segment + 1) : nextSample b p pos = none := by
  have hno : ¬ pos.segment + 1 < (p.segments pos.phase).length := by omega
  simp only [nextSample, hk, segmentOf_eq hd, if_neg (Nat.not_lt.2 h), if_neg hno]

end

/-! ### The step by the record's state (R67, R69, R90) -/

section
variable {s : State} {r : Record} {p : Profile} {pos : Position} (lo hi : Bool)

/-- In PREHEAT and TAIL the next sample plays, unless a SEGMENT_END cancel takes the end of a preheat segment. -/
theorem profileStep_plays (h : r.state = .preheat ∧ pos.phase = .preheat
      ∧ (segmentEnded s.store.activeBank p pos = false ∨ r.cancel ≠ some .segmentEnd)
    ∨ r.state = .tail ∧ pos.phase = .tail) {g k : Nat} (hnext : nextSample s.store.activeBank p pos = some (g, k)) :
    s.profileStep r p pos lo hi = s.playSample r p pos.phase g k := by
  rcases h with ⟨hst, hph, hgoes⟩ | ⟨hst, hph⟩
  · have hcond : ¬ (segmentEnded s.store.activeBank p pos && decide (r.cancel = some .segmentEnd)) = true := by
      rcases hgoes with h | h <;> simp [h]
    have hstep : s.profileStep r p pos lo hi = s.advancePreheat r p pos := by simp only [State.profileStep, hst]
    rw [hstep, hph]
    refine (if_neg hcond).trans ?_
    rw [hnext]
  · have hstep : s.profileStep r p pos lo hi = s.advanceTail r p pos := by simp only [State.profileStep, hst]
    rw [hstep, hph, State.advanceTail, hnext]

theorem profileStep_ready (hst : r.state = .preheat) (hcancel : r.cancel ≠ some .segmentEnd)
    (hnext : nextSample s.store.activeBank p pos = none) : s.profileStep r p pos lo hi = s.enterReady r p := by
  have hcond : ¬ (segmentEnded s.store.activeBank p pos && decide (r.cancel = some .segmentEnd)) = true := by
    simp [hcancel]
  have hstep : s.profileStep r p pos lo hi = s.advancePreheat r p pos := by simp only [State.profileStep, hst]
  rw [hstep]
  refine (if_neg hcond).trans ?_
  rw [hnext]

theorem profileStep_cancelled (hst : r.state = .preheat) (hcancel : r.cancel = some .segmentEnd)
    (hended : segmentEnded s.store.activeBank p pos = true) :
    s.profileStep r p pos lo hi = s.endPlan r .cancelled none := by
  have hcond : (segmentEnded s.store.activeBank p pos && decide (r.cancel = some .segmentEnd)) = true := by
    simp [hcancel, hended]
  have hstep : s.profileStep r p pos lo hi = s.advancePreheat r p pos := by simp only [State.profileStep, hst]
  rw [hstep]
  exact if_pos hcond

theorem profileStep_tailEnd (hst : r.state = .tail) (hnext : nextSample s.store.activeBank p pos = none) :
    s.profileStep r p pos lo hi = s.endTail r := by
  have hstep : s.profileStep r p pos lo hi = s.advanceTail r p pos := by simp only [State.profileStep, hst]
  rw [hstep, State.advanceTail, hnext]

/-- In WRITING the monitor reads the comparators and the first-step flag clears before play goes on (R70, R90). -/
theorem profileStep_writing (hst : r.state = .writing) {b : Burst} (hb : s.burst = some b) :
    s.profileStep r p pos lo hi = State.advanceWrite
      { s with burst := some (b.reading s.now lo hi), seq := { s.seq with firstStep := false } } r p pos := by
  simp only [State.profileStep, hst, State.monitorReading, hb, Option.map_some]

end

/-! ### Entry to READY (R69) -/

section
variable {s : State} {r : Record} {p : Profile} {v : HeadValues} (hv : s.seq.captured = some v) {code : Nat}
  (hcode : code = levelCode v p.hold)
include hv hcode

/-- The hold sample of a record that has come to READY. -/
theorem ready_emits : (s.updateRecord r.tag (fun x => { x with state := .ready })).emit r p.hold = { s with
    plans := s.plans.update r.tag (fun x => { x with state := .ready }),
    seq := { s.seq with laser := .on r.head code },
    drive := { s.drive with sent := s.drive.sent ++ DriveSent s r.head code } } := by
  rw [emit_eq (s := s.updateRecord r.tag (fun x => { x with state := .ready })) hv r p.hold, ← hcode]
  rfl

theorem enterReady_stays (h : s.pins.sgate = false ∨ s.pins.wgate = false) : s.enterReady r p = { s with
    plans := s.plans.update r.tag (fun x => { x with state := if s.pins.sgate then .paused .ready else .ready }),
    seq := { s.seq with laser := .on r.head code },
    drive := { s.drive with sent := s.drive.sent ++ DriveSent s r.head code } } := by
  unfold State.enterReady
  rw [ready_emits hv hcode]
  cases hg : s.pins.sgate with
  | false => rfl
  | true =>
    have hlow : ¬ s.pins.wgate = true := by
      rw [hg] at h
      simpa using h
    rw [if_pos rfl, if_neg hlow]
    have hplans : (s.plans.update r.tag (fun x => { x with state := .ready })).update r.tag
          (fun x => { x with state := .paused .ready })
        = s.plans.update r.tag (fun x => { x with state := .paused .ready }) :=
      update_update s.plans r.tag _ (f := fun x => { x with state := .ready }) (fun _ => rfl)
    exact state_eq_of_plans hplans rfl

theorem enterReady_clash (hs : s.pins.sgate = true) (hw : s.pins.wgate = true) : s.enterReady r p = State.clash { s with
    plans := s.plans.update r.tag (fun x => { x with state := .ready }),
    seq := { s.seq with laser := .on r.head code },
    drive := { s.drive with sent := s.drive.sent ++ DriveSent s r.head code } } { r with state := .ready } := by
  unfold State.enterReady
  rw [ready_emits hv hcode, if_pos hs, if_pos hw]

end

end Sys2Proof.Machine
end

section
/-! PROOFS. The advance of play at the end of a profile step. -/

namespace Sys2Proof.Machine

/-- Settles O43: the branches of the step, each a lemma about the record's state and the place in its segment. -/
theorem profileStepAdvancesPlay : Obligations.ProfileStepAdvancesPlay := by
  intro s r p v pos k lo hi hex hp hv hpos hk
  have hexec := exec_profileStepEnd_plan hex hp hpos lo hi
  let w := s.setMonitorLines lo hi
  refine ⟨fun d code hcase hcount hcode => ?_, fun d d' code hcase hcount hcode => ?_,
    fun d code hst hph hd hcount hlast hcancel hcode => ⟨fun hgates => ?_, fun hsgate hwgate hburst => ?_⟩,
    fun d report hst hph hd hcount hcancel hreport => ?_,
    fun b next sample target code low high hst hph hseg hb hcancel hnext hsample hcode htarget hlow hhigh => ?_,
    fun b hst hph hseg hb hcancel hcount => ⟨fun d ds code htail hcode => ?_, fun u report htail hu hreport => ?_⟩,
    fun d report hst hph hd hcount hlast hreport u hu => ?_⟩
  · have hd : (p.segments pos.phase)[pos.segment]? = some d := by
      rcases hcase with ⟨-, hph, hd⟩ | ⟨-, hph, hd⟩ <;> rw [hph] <;> exact hd
    have hplays := profileStep_plays (s := w) (r := r) lo hi
      (hcase.imp (fun ⟨hst, hph, _⟩ => ⟨hst, hph, .inl (segmentEnded_inSegment hk hd hcount)⟩)
        (fun ⟨hst, hph, _⟩ => ⟨hst, hph⟩)) (nextSample_inSegment hk hd hcount)
    have hph : pos.phase ≠ .write := by rcases hcase with ⟨-, h, -⟩ | ⟨-, h, -⟩ <;> simp [h]
    refine hexec.trans (congrArg _ (hplays.trans ?_))
    exact playSample_unmonitored (s := w) hv r p hph pos.segment (k + 1) (by rw [hcode, sampleValue_eq hd] <;> rfl)
  · have hd : (p.segments pos.phase)[pos.segment]? = some d := by
      rcases hcase with ⟨-, hph, -, hd, -⟩ | ⟨-, hph, hd, -⟩ <;> rw [hph] <;> exact hd
    have hd' : (p.segments pos.phase)[pos.segment + 1]? = some d' := by
      rcases hcase with ⟨-, hph, -, -, hd⟩ | ⟨-, hph, -, hd⟩ <;> rw [hph] <;> exact hd
    have hplays := profileStep_plays (s := w) (r := r) lo hi
      (hcase.imp (fun ⟨hst, hph, hcancel, _⟩ => ⟨hst, hph, .inr hcancel⟩) (fun ⟨hst, hph, _⟩ => ⟨hst, hph⟩))
      (nextSample_nextSegment hk hd hcount (segments_lt hd'))
    have hph : pos.phase ≠ .write := by rcases hcase with ⟨-, h, -⟩ | ⟨-, h, -⟩ <;> simp [h]
    refine hexec.trans (congrArg _ (hplays.trans ?_))
    exact playSample_unmonitored (s := w) hv r p hph (pos.segment + 1) 0 (by rw [hcode, sampleValue_eq hd'] <;> rfl)
  · have hd : (p.segments pos.phase)[pos.segment]? = some d := by rw [hph]; exact hd
    have hnone := nextSample_phaseEnd (b := w.store.activeBank) hk hd hcount (by rw [hph]; exact hlast)
    refine hexec.trans (congrArg _ ((profileStep_ready (s := w) lo hi hst hcancel hnone).trans ?_))
    exact enterReady_stays (s := w) hv hcode hgates
  · have hd : (p.segments pos.phase)[pos.segment]? = some d := by rw [hph]; exact hd
    have hnone := nextSample_phaseEnd (b := w.store.activeBank) hk hd hcount (by rw [hph]; exact hlast)
    have hclash := enterReady_clash (s := w) (r := r) (p := p) hv hcode hsgate hwgate
    let r' : Record := { r with state := .ready }
    let ready (fault : Bool) : State := { w with
      plans := s.plans.update r.tag (fun x => { x with state := .ready }),
      seq := { s.seq with laser := .on r.head code, wfault := fault },
      drive := { s.drive with sent := s.drive.sent ++ DriveSent s r.head code } }
    have hfault : (s.seq.wfault || s.pins.wgate) = true := by rw [hwgate, Bool.or_true]
    have hends : w.enterReady r p = (ready true).endPlan r' .servoClash (some s.now) := by
      rw [← hfault]
      exact hclash
    refine ⟨_, hexec.trans (congrArg _ ((profileStep_ready (s := w) lo hi hst hcancel hnone).trans hends)), ?_⟩
    have hended : PlanEnded (ready true) r .servoClash (some s.now) none none _ :=
      endPlan_planEnded (ready true) r' .servoClash _ none none (by simp [r']) (noCorrection_none hburst)
    exact planEnded_of_update (st := .ready) hended
  · have hd : (p.segments pos.phase)[pos.segment]? = some d := by rw [hph]; exact hd
    have hended := segmentEnded_last (b := w.store.activeBank) hk hd hcount
    exact endsPlan_of_endPlan (u := w) (by simp [hst]) hreport
      (hexec.trans (congrArg _ (profileStep_cancelled (s := w) lo hi hst hcancel hended)))
  · let u : State := { w with burst := some (b.reading s.now lo hi), seq := { s.seq with firstStep := false } }
    refine hexec.trans (congrArg _ ((profileStep_writing (s := w) lo hi hst hb).trans ?_))
    refine (advanceWrite_pass (s := u) hk hph hseg hcancel hnext).trans ?_
    exact playSample_write (s := u) hv r p 0 next hsample hcode htarget hlow hhigh
  · let u : State := { w with burst := some (b.reading s.now lo hi), seq := { s.seq with firstStep := false } }
    refine hexec.trans (congrArg _ ((profileStep_writing (s := w) lo hi hst hb).trans ?_))
    refine (advanceWrite_cancelled (s := u) hk hph hseg hcancel hcount).trans ?_
    refine (enterTail_plays (s := u.assertWfault) hv r htail none hcode).trans ?_
    rw [hcancel]
    rfl
  · let w' : State := { w with burst := some (b.reading s.now lo hi), seq := { s.seq with firstStep := false } }
    have hstep : exec (.profileStepEnd lo hi) s = .next (w'.assertWfault.enterTail r p none) :=
      hexec.trans (congrArg _ ((profileStep_writing (s := w) lo hi hst hb).trans
        (advanceWrite_cancelled (s := w') hk hph hseg hcancel hcount)))
    have hends := endsPlan_of_enterTail (s := s) (u := w'.assertWfault) (report := report) htail (by rw [hreport, hu] <;> rfl) hstep
    have houtcome : (if Option.isSome (none : Option Time) = true then PlanOutcome.overrun
        else if r.cancel = some .segmentEnd then .cancelled else .done) = .cancelled := if_pos hcancel
    rw [houtcome] at hends
    rw [hu]
    exact hends
  · have hd : (p.segments pos.phase)[pos.segment]? = some d := by rw [hph]; exact hd
    have hnone := nextSample_phaseEnd (b := w.store.activeBank) hk hd hcount (by rw [hph]; exact hlast)
    have hstep : exec (.profileStepEnd lo hi) s = .next (w.endPlan r (tailOutcome w r) w.seq.overrun) :=
      hexec.trans (congrArg _ ((profileStep_tailEnd (s := w) lo hi hst hnone).trans (endTail_eq w r)))
    rw [hu]
    refine tailOutcome_cases (s := w) (C := fun o fault => EndsPlan (.profileStepEnd lo hi) s w r o fault report none) ?_
    exact endsPlan_of_endPlan (by simp [hst]) hreport hstep

end Sys2Proof.Machine
end

section
/-! PROOFS. The calibration search, step by step. -/

namespace Sys2Proof.Machine

theorem exec_calibrationStepEnd_plan {s : State} {r : Record} {x : Search} (hex : Executing s r)
    (hst : r.state = .calibrating) (hx : s.search = some x)
    (ht : timeBefore s.now (timePlus r.windowStart (x.step * (s.config.calLength / 20))) = false) (lo hi : Bool) :
    exec (.calibrationStepEnd lo hi) s = .next ((s.setMonitorLines lo hi).calibrationStep r x lo hi) := by
  have hcur : (s.setMonitorLines lo hi).currentRecord = some r := hex.current
  have hx' : (s.setMonitorLines lo hi).search = some x := hx
  have hreached : timeBefore (s.setMonitorLines lo hi).now (calStepEndOf s.config r x) = false := ht
  have hdue : (s.takesEvents && decide (r.state = .calibrating)) = true := by
    rw [hex.takesEvents, hst]
    rfl
  simp only [exec, execCalibrationStepEnd, hcur, hx']
  rw [if_pos hdue, atTime_reached _ _ _ hreached]

/-! ### The levels taken, and the codes tried (R121, R122) -/

section
variable (x : Search) (lo hi : Bool)

/-- A step of the threshold search keeps its bit where MONHI is low. -/
theorem reading_threshold (h : x.step ≤ 10) : x.reading lo hi = { x with
    threshold := if hi then x.threshold else x.threshold + 2 ^ (10 - x.step), monlo := x.monlo + (if lo then 1 else 0) } := by
  have hcandidate : x.candidate = x.threshold + 2 ^ (10 - x.step) := by
    simp only [Search.candidate, calBit, if_pos h]
  unfold Search.reading
  cases hi <;> cases lo <;> simp [h, hcandidate]

/-- A step of the write search keeps its bit where MONHI is low and the candidate is a code. -/
theorem reading_offset (h : 11 ≤ x.step) : x.reading lo hi = { x with
    offset := if hi = false ∧ x.threshold + x.offset + 2 ^ (20 - x.step) ≤ 1023 then x.offset + 2 ^ (20 - x.step)
      else x.offset,
    monlo := x.monlo + (if lo then 1 else 0) } := by
  have hlate : ¬ x.step ≤ 10 := by omega
  have hcandidate : x.candidate = x.threshold + x.offset + 2 ^ (20 - x.step) := by
    simp only [Search.candidate, calBit, if_neg hlate]
  unfold Search.reading
  by_cases hcode : x.threshold + x.offset + 2 ^ (20 - x.step) ≤ 1023 <;> cases hi <;> cases lo <;>
    simp [hlate, calBit, hcandidate, hcode]

theorem trialCode_threshold (h : x.step ≤ 10) (hfits : x.threshold + 2 ^ (10 - x.step) ≤ 1023) :
    x.trialCode = x.threshold + 2 ^ (10 - x.step) := by
  have hcandidate : x.candidate = x.threshold + 2 ^ (10 - x.step) := by
    simp only [Search.candidate, calBit, if_pos h]
  rw [Search.trialCode, hcandidate, if_pos hfits]

theorem trialCode_offset (h : 11 ≤ x.step) : x.trialCode
    = if x.threshold + x.offset + 2 ^ (20 - x.step) ≤ 1023 then x.threshold + x.offset + 2 ^ (20 - x.step)
      else x.threshold + x.offset := by
  have hlate : ¬ x.step ≤ 10 := by omega
  have hcandidate : x.candidate = x.threshold + x.offset + 2 ^ (20 - x.step) := by
    simp only [Search.candidate, calBit, if_neg hlate]
  rw [Search.trialCode, hcandidate]

end

/-- The bits still to be tried fit above what is kept: the next candidate of the threshold search is a code. -/
theorem nextCandidate_fits {x : Search} (h : SearchSound x) (hstep : x.step ≤ 9) {thr : Nat}
    (hthr : thr ≤ x.threshold + 2 ^ (10 - x.step)) : thr + 2 ^ (10 - (x.step + 1)) ≤ 1023 := by
  obtain ⟨-, -, hthreshold, -⟩ := h
  obtain ⟨hroom, -⟩ := hthreshold (by omega)
  have hthis : 2 ^ (10 - x.step) = 2 * 2 ^ (10 - (x.step + 1)) := by
    rw [← Nat.pow_succ']; congr 1; omega
  have hnext : 2 ^ (11 - x.step) = 4 * 2 ^ (10 - (x.step + 1)) := by
    have hsplit : 11 - x.step = 2 + (10 - (x.step + 1)) := by omega
    rw [hsplit, Nat.pow_add]
  have hpos : 0 < 2 ^ (10 - (x.step + 1)) := Nat.two_pow_pos _
  omega

/-! ### A step that goes on -/

/-- The step before the search turns to the write code, and every step of the write search: a new trial code. -/
theorem calibrationStep_goesOn (s : State) (r : Record) {x x' : Search} {lo hi : Bool} (hstep : x.step < 20)
    (hne : x.step ≠ 10) (hx : { x.reading lo hi with step := x.step + 1 } = x') {code : Nat}
    (hcode : code = x'.trialCode) : s.calibrationStep r x lo hi = { s with
      search := some x', seq := { s.seq with laser := .on r.head code },
      drive := { s.drive with sent := s.drive.sent ++ DriveSent s r.head code } } := by
  have hlast : ¬ 20 ≤ x.step := by omega
  have hturn : ¬ x.step + 1 = 11 := by omega
  have hgoes : s.calibrationStep r x lo hi
      = State.setLaser { s with search := some { x.reading lo hi with step := x.step + 1 } }
        (.on r.head (Search.trialCode { x.reading lo hi with step := x.step + 1 })) := by
    refine (if_neg hlast).trans ?_
    exact congrArg (fun t : State => t.setLaser _) (if_neg hturn)
  rw [hgoes, hx, ← hcode, setLaser_on]
  rfl

/-- Step 10 turns the search to the write code: the references change (R122). -/
theorem calibrationStep_turns (s : State) (r : Record) {x x' : Search} {lo hi : Bool} (hstep : x.step = 10)
    (hx : { x.reading lo hi with step := x.step + 1 } = x') {code : Nat} (hcode : code = x'.trialCode) :
    s.calibrationStep r x lo hi = { s with
      search := some x', seq := { s.seq with laser := .on r.head code },
      drive := { sent := s.drive.sent ++ PairSent s 0 s.config.writeReference ++ DriveSent s r.head code,
                 references := some (0, s.config.writeReference) } } := by
  have hlast : ¬ 20 ≤ x.step := by omega
  have hturn : x.step + 1 = 11 := by omega
  have hgoes : s.calibrationStep r x lo hi
      = State.setLaser (State.setReferences { s with search := some { x.reading lo hi with step := x.step + 1 } }
          0 s.config.writeReference)
        (.on r.head (Search.trialCode { x.reading lo hi with step := x.step + 1 })) := by
    refine (if_neg hlast).trans ?_
    exact congrArg (fun t : State => t.setLaser _) (if_pos hturn)
  rw [hgoes, hx, ← hcode, setReferences_eq, setLaser_on]
  rfl

theorem calibrationStep_last (s : State) (r : Record) {x : Search} (lo hi : Bool) (hstep : x.step = 20) :
    s.calibrationStep r x lo hi = s.endCalibration r (x.reading lo hi).result :=
  if_pos (by omega)

/-! ### The end of the search (R123, R124) -/

/-- The ending of a plan keeps the queue sound. -/
theorem queueSound_of_planEnded {s u : State} {r : Record} {o : PlanOutcome} {fault : Option Time}
    {report : Option Report} {cal : Option CalResult} (hq : QueueSound s) (hfind : s.plans.find r.tag = some r)
    (hlive : r.live = true) (h : PlanEnded s r o fault report cal u) : QueueSound u := by
  obtain ⟨-, hplans, -⟩ := h
  refine hq.map (congrArg PlanQueue.records hplans) fun x hx => ?_
  by_cases hxr : x.tag = r.tag
  · have hsame : x = r := eq_of_tag hq hx (mem_of_find hfind) hxr
    rw [if_pos hxr]
    exact Continues.of_live ⟨rfl, rfl, rfl, rfl, rfl⟩ (by rw [hsame]; exact hlive)
  · rw [if_neg hxr]
    exact Continues.refl x

theorem planEnded_keeps {s u : State} {r : Record} {o : PlanOutcome} {fault : Option Time} {report : Option Report}
    {cal : Option CalResult} (h : PlanEnded s r o fault report cal u) : u.heads = s.heads ∧ u.store = s.store := by
  obtain ⟨hstate, -, -⟩ := h
  have hheads := congrArg State.heads hstate
  have hstore := congrArg State.store hstate
  exact ⟨hheads, hstore⟩

theorem endCalibration_done (s : State) (r : Record) {c : CalResult} (h : c.cause = .none) :
    s.endCalibration r c = (s.endPlan r .done none (some c)).setHeadRecord r.head
      { state := .valid, threshold := c.threshold, write := c.write, trim := 0, source := .cal, stamp := some s.now } := by
  simp only [State.endCalibration, h]

theorem endCalibration_failed (s : State) (r : Record) {c : CalResult} (h : c.cause ≠ .none) :
    s.endCalibration r c = (s.endPlan r .calFail none (some c)).markSuspect r.head := by
  unfold State.endCalibration
  cases hc : c.cause with
  | none => exact absurd hc h
  | monitor => rfl
  | writeLimit => rfl

/-- What step 20 finds (R123). -/
theorem result_last {x : Search} (hstep : x.step = 20) {lo hi : Bool} {off count w : Nat}
    (hoff : off = if hi = false ∧ x.threshold + x.offset + 1 ≤ 1023 then x.offset + 1 else x.offset)
    (hcount : count = x.monlo + (if lo then 1 else 0)) (hw : w = x.threshold + off) : (x.reading lo hi).result =
      { threshold := x.threshold, write := if w = 1023 then 1023 else w + 1,
        cause := if 0 < count ∨ x.threshold = 0 then .monitor else if w = 1023 then .writeLimit else .none,
        monlo := count } := by
  have hread : x.reading lo hi = { x with offset := off, monlo := count } := by
    rw [reading_offset x lo hi (by omega), hoff, hcount, hstep] <;> rfl
  rw [hread, hw]
  rfl

/-- Settles O44. -/
theorem calibrationStepSearches : Obligations.CalibrationStepSearches := by
  intro s r x lo hi hex hst hx hsound hburst ht
  have hexec := exec_calibrationStepEnd_plan hex hst hx ht lo hi
  let w := s.setMonitorLines lo hi
  refine ⟨fun thr code _ hstep hthr hcode => ?_, fun thr code hstep hoffset hthr hcode => ?_,
    fun off code hlow hstep hoff hcode => ?_, fun off count c hstep hoff hcount hw => ⟨fun hzero hthr hne => ?_, fun hfail => ?_⟩⟩
  · have hread := reading_threshold x lo hi (by omega)
    have hkept : thr ≤ x.threshold + 2 ^ (10 - x.step) := by
      rw [hthr]
      split
      · exact Nat.le_add_right _ _
      · exact Nat.le_refl _
    have hbit : 10 - (x.step + 1) = 9 - x.step := by omega
    refine hexec.trans (congrArg _ (calibrationStep_goesOn w r (lo := lo) (hi := hi) (by omega) (by omega)
      (by rw [hread, hthr]) ?_))
    rw [trialCode_threshold _ (Nat.succ_le_succ hstep) (nextCandidate_fits hsound hstep hkept), hcode, hbit]
  · have hread := reading_threshold x lo hi (by omega)
    refine hexec.trans (congrArg _ (calibrationStep_turns w r (lo := lo) (hi := hi) hstep
      (by rw [hread, hthr, hstep] <;> rfl) ?_))
    rw [trialCode_offset _ (Nat.le_refl 11), hcode, hoffset] <;> rfl
  · have hread := reading_offset x lo hi hlow
    have hbit : 20 - (x.step + 1) = 19 - x.step := by omega
    refine hexec.trans (congrArg _ (calibrationStep_goesOn w r (lo := lo) (hi := hi) (by omega) (by omega)
      (by rw [hread, hoff]) ?_))
    rw [trialCode_offset _ (Nat.le_succ_of_le hlow), hcode, hbit]
  · have hresult := result_last hstep hoff hcount hw
    have hmonitor : ¬(0 < count ∨ x.threshold = 0) := by omega
    rw [if_neg hmonitor, if_neg hne, if_neg hne, hzero] at hresult
    have hended := endPlan_planEnded w r .done none none (some (x.reading lo hi).result) (by simp [hst])
      (noCorrection_none hburst)
    have hheads : (w.endPlan r .done none (some (x.reading lo hi).result)).heads = s.heads := (planEnded_keeps hended).1
    have hdone := endCalibration_done w r (c := (x.reading lo hi).result) (by rw [hresult])
    refine ⟨_, w.endPlan r .done none (some (x.reading lo hi).result),
      hexec.trans (congrArg _ ((calibrationStep_last w r lo hi hstep).trans hdone)), ?_, ?_⟩
    · rw [← hresult]
      exact hended
    · rw [State.setHeadRecord, hheads, hresult]
      rfl
  · have hresult := result_last hstep hoff hcount hw
    have hcause : (if 0 < count ∨ x.threshold = 0 then CalCause.monitor else if c = 1023 then .writeLimit else .none)
        = if 0 < count ∨ x.threshold = 0 then .monitor else .writeLimit := by
      by_cases hmonitor : 0 < count ∨ x.threshold = 0
      · rw [if_pos hmonitor, if_pos hmonitor]
      · rw [if_neg hmonitor, if_neg hmonitor, if_pos (by omega)]
    rw [hcause] at hresult
    have hfailure : (x.reading lo hi).result.cause ≠ .none := by
      rw [hresult]
      dsimp only
      split <;> simp
    have hfailed := endCalibration_failed w r (c := (x.reading lo hi).result) hfailure
    have hended := endPlan_planEnded w r .calFail none none (some (x.reading lo hi).result) (by simp [hst])
      (noCorrection_none hburst)
    rw [hresult] at hfailed hended
    refine ⟨_, hexec.trans (congrArg _ ((calibrationStep_last w r lo hi hstep).trans
      ((congrArg _ hresult).trans hfailed))), hended, fun h hq hh hswap => ?_⟩
    obtain ⟨hheads, hstore⟩ := planEnded_keeps hended
    have hlive : r.live = true := by simp [Record.live, hst]
    have hqueue := queueSound_of_planEnded (s := w) hq hex.2.2.2 hlive hended
    rw [markSuspect_eq _ r.head h hqueue (by rw [hheads]; exact hh),
      swapBeforeEndings_none _ (by rw [hstore]; exact hswap), hheads]
    rfl

end Sys2Proof.Machine
end

section
/-! PROOFS. Spindle loss. -/

namespace Sys2Proof.Machine

/-! ### All live records finish (R12) -/

theorem finishAll_eq (s : State) (rs : List Record) (e : Record → Ending) :
    s.finishAll rs e = { s with plans := (s.finishAll rs e).plans, link := (s.finishAll rs e).link } := by
  induction rs generalizing s with
  | nil => rfl
  | cons r rs ih =>
    have hstep : s.finishAll (r :: rs) e = (s.finish r (e r)).finishAll rs e := rfl
    rw [hstep, ih]
    rfl

/-- A record that finishes changes nothing that a cleared link keeps. -/
theorem finishAll_link_clear (s : State) (rs : List Record) (e : Record → Ending) :
    (s.finishAll rs e).link.clear = s.link.clear := by
  induction rs generalizing s with
  | nil => rfl
  | cons r rs ih =>
    have hstep : s.finishAll (r :: rs) e = (s.finish r (e r)).finishAll rs e := rfl
    have hone : (s.finish r (e r)).link.clear = s.link.clear := by
      simp only [State.finish, Link.finishing, Link.withdraw, Link.enqueue, Link.clear]
      split <;> split <;> (try split) <;> rfl
    rw [hstep, ih, hone]

theorem finishAll_live_plans {s : State} (h : QueueSound s) (e : Record → Ending) :
    (s.finishAll (s.plans.records.filter Record.live) e).plans.clearReleases = { s.plans with
      records := s.plans.records.map (lostRecord e s.now),
      finished := s.plans.finished ++ (s.plans.records.filter Record.live).map Record.tag } := by
  rw [← finishAll_live_records h e, finishAll_plans s _ _ (h.nodup_filter _)]
  rfl

/-- The station that spindle loss has taken its plans and its link traffic from, its swap and its head not yet
settled. -/
def spindleStopped (s : State) : State :=
  { s with
    plans := { s.plans with
      records := s.plans.records.map (lostRecord s.spindleEnding s.now),
      finished := s.plans.finished ++ (s.plans.records.filter Record.live).map Record.tag },
    seq := { current := none, profile := none, captured := none, position := none, firstStep := false,
             laser := .off, wfault := s.seq.wfault || s.pins.wgate, overrun := none },
    link := s.link.clear, burst := none, search := none,
    drive := (s.setLaser .off).drive, free := (s.setLaser .off).free }

/-- The report of the burst that spindle loss finds open. -/
def openReport (s : State) : Option Report := s.burst.map (fun b => b.report s.config.deviationThreshold)

/-- The station once the pending swap is done and the report has had its effect. -/
def spindleSettled (s : State) : State :=
  (spindleStopped s).resolvePendingSwap.afterBurst ((s.burst.map Burst.head).getD 0) (openReport s)

/-- Every live record finished, every release cleared, link and sequencer emptied. -/
theorem finishAll_stopped {u : State} (h : QueueSound u) (e : Record → Ending) {v : State}
    (hv : u.finishAll (u.plans.records.filter Record.live) e = v) :
    ({ v with plans := v.plans.clearReleases, link := v.link.clear, seq := v.seq.idle, burst := none,
              search := none } : State)
      = { u with
          plans := { u.plans with
            records := u.plans.records.map (lostRecord e u.now),
            finished := u.plans.finished ++ (u.plans.records.filter Record.live).map Record.tag },
          link := u.link.clear, seq := u.seq.idle, burst := none, search := none } := by
  rw [← finishAll_live_plans h e, ← finishAll_link_clear u (u.plans.records.filter Record.live) e, hv]
  rw [finishAll_eq] at hv
  rw [← hv]

theorem loseSpindle_eq {s : State} (h : QueueSound s) : s.loseSpindle = State.writeFault
    { spindleSettled s with
      table := [], peers := PeerBlock.cleared (spindleSettled s).number,
      station := if (spindleSettled s).station = .setup then .setup else .listen } .spindleLost (spindleSettled s).now := by
  let u : State := { s with
    seq := { s.seq with laser := .off, wfault := s.seq.wfault || s.pins.wgate },
    drive := (s.setLaser .off).drive, free := (s.setLaser .off).free }
  have hu : (s.setLaser .off).assertWfault = u := by
    rw [setLaser_off_eq s]
    rfl
  have hq : QueueSound u := h
  unfold State.loseSpindle
  simp only [hu, finishAll_stopped hq s.spindleEnding rfl]
  rfl

/-! ### Nothing is left to block the swap or to fall with a head -/

theorem spindleStopped_notLive (s : State) : ∀ x ∈ (spindleStopped s).plans.records, x.live = false := by
  intro x hx
  obtain ⟨y, -, rfl⟩ := List.mem_map.1 hx
  exact lostRecord_live _ _ y

/-- A marking with no record live and no swap pending is the head record's alone. -/
theorem markSuspect_alone {u : State} (hnone : ∀ x ∈ u.plans.records, x.live = false)
    (hswap : u.store.standbyBank.state ≠ .swapPending) (head : Nat) :
    u.markSuspect head = u.setHeadRecord head { u.headRecord head with state := .suspect } := by
  have hsiblings : suspectSiblings u.plans.records head = [] := by
    refine List.filter_eq_nil_iff.2 fun x hx hhit => ?_
    have hlive := hnone x hx
    simp only [Bool.and_eq_true, Bool.or_eq_true, decide_eq_true_eq] at hhit
    rcases hhit.2 with h | h <;> simp [Record.live, h] at hlive
  have hmark : u.markSuspect head = State.finishAll
      (u.swapBeforeEndings.setHeadRecord head { u.swapBeforeEndings.headRecord head with state := .suspect })
      (suspectSiblings u.swapBeforeEndings.plans.records head) suspectEnding := rfl
  rw [hmark, swapBeforeEndings_none u hswap, hsiblings]
  rfl

theorem afterBurst_alone {u : State} (hnone : ∀ x ∈ u.plans.records, x.live = false)
    (hswap : u.store.standbyBank.state ≠ .swapPending) (head : Nat) (report : Option Report) :
    ∃ hs, u.afterBurst head report = { u with heads := hs } := by
  have hmark : ∃ hs, u.markSuspect head = { u with heads := hs } := ⟨_, markSuspect_alone hnone hswap head⟩
  cases report with
  | none => exact ⟨u.heads, rfl⟩
  | some m =>
    cases hc : m.cls with
    | clean => exact ⟨u.heads, by simp only [State.afterBurst, hc]⟩
    | drift => exact ⟨u.heads, by simp only [State.afterBurst, hc]⟩
    | loss => simpa only [State.afterBurst, hc] using hmark
    | marginal =>
      simp only [State.afterBurst, hc, State.trimStep]
      split
      · exact ⟨u.heads, rfl⟩
      · split
        · exact hmark
        · exact ⟨_, rfl⟩

/-- The swap of a station with no record live is done where it is pending (R110). -/
theorem resolvePendingSwap_alone {u : State} (hnone : ∀ x ∈ u.plans.records, x.live = false) : u.resolvePendingSwap
    = { u with store := if u.store.standbyBank.state = .swapPending then u.store.completeSwap else u.store } := by
  have hblock : swapBlocker u.store.standbyBank u.plans.records = none :=
    List.find?_eq_none.2 fun x hx => by simp [hnone x hx]
  unfold State.resolvePendingSwap
  by_cases hpending : u.store.standbyBank.state = .swapPending
  · rw [if_pos hpending, if_pos ((swapPending_iff _).2 hpending), resolveSwap_done hblock]
  · rw [if_neg hpending, if_neg fun h => hpending ((swapPending_iff _).1 h)]

/-- The store once a pending swap is done. -/
def settledStore (s : State) : ProfileStore :=
  if s.store.standbyBank.state = .swapPending then s.store.completeSwap else s.store

theorem settledStore_notPending {s : State} (h : StoreSound s) :
    (settledStore s).standbyBank.state ≠ .swapPending := by
  obtain ⟨-, -, hactive, -⟩ := h
  unfold settledStore
  split
  · obtain ⟨-, -, -, hstandby, -⟩ := s.store.completeSwap_frame
    rw [hstandby]
    rcases hactive with h | h <;> simp [h]
  · assumption

theorem spindleSettled_eq {s : State} (h : StoreSound s) :
    spindleSettled s = { spindleStopped s with store := settledStore s, heads := (spindleSettled s).heads } := by
  have hswap : (spindleStopped s).resolvePendingSwap = { spindleStopped s with store := settledStore s } :=
    resolvePendingSwap_alone (spindleStopped_notLive s)
  obtain ⟨hs, hheads⟩ := afterBurst_alone (u := { spindleStopped s with store := settledStore s })
    (spindleStopped_notLive s) (settledStore_notPending h) ((s.burst.map Burst.head).getD 0) (openReport s)
  unfold spindleSettled
  rw [hswap, hheads]

theorem spindleSettled_heads_closed {s : State} (hb : s.burst = none) : (spindleSettled s).heads = s.heads := by
  unfold spindleSettled openReport
  rw [hb]
  have hheads := congrArg State.heads (resolvePendingSwap_alone (spindleStopped_notLive s))
  exact hheads

theorem spindleSettled_heads_open {s : State} (h : StoreSound s) (hq : QueueSound s) {b : Burst} (hb : s.burst = some b)
    {x : HeadRecord} (hx : s.heads[b.head]? = some x) {m : Report} (hm : m = b.report s.config.deviationThreshold)
    {suspect : Bool} (hd : suspect = true ↔ Distrusts s x m) :
    (spindleSettled s).heads = s.heads.set b.head (HeadAfter s x m suspect) := by
  let u : State := { spindleStopped s with store := settledStore s }
  have hswap : (spindleStopped s).resolvePendingSwap = u := resolvePendingSwap_alone (spindleStopped_notLive s)
  have hqueue : QueueSound u := hq.map (f := lostRecord s.spindleEnding s.now) rfl fun y _ => lostRecord_continues _ _ y
  have hreport : spindleSettled s = u.afterBurst b.head (some m) := by
    unfold spindleSettled openReport
    rw [hswap, hb, hm]
    rfl
  rw [hreport, afterBurst_eq u b.head x m suspect hqueue hx hd (.inr (settledStore_notPending h)), AfterReport]
  split <;> rfl

theorem lostRecord_spindle (s : State) (r : Record) : lostRecord s.spindleEnding s.now r =
    if r.live then endedRecord r .spindle s.now
      ((s.burst.filter (fun b => decide (b.tag = r.tag))).map (fun b => b.report s.config.deviationThreshold))
      none none false
    else { r with releasePending := false } := by
  unfold lostRecord
  cases r.live <;> rfl

theorem exec_spindleLoss {s : State} (hr : s.pins.rstn = true) (hv : s.clock.valid = true) (hh : s.clock.hold = true) :
    exec .spindleLoss s = .next (if s.station = .halted
      then State.writeFault { s with clock := s.clock.lost } .spindleLost s.now
      else State.loseSpindle { s with clock := s.clock.lost }) := by
  have hlost : (s.pins.rstn && s.clock.valid && s.clock.hold) = true := by simp [hr, hv, hh]
  exact congrArg _ (if_pos hlost)

/-- Settles O35. -/
theorem spindleLossClearsTheSharedView : Obligations.SpindleLossClearsTheSharedView := by
  intro s hr hv hh hq
  refine ⟨fun hst hstore => ?_, fun hst => ?_⟩
  · let u : State := { s with clock := s.clock.lost }
    have hloss : exec .spindleLoss s = .next u.loseSpindle := by
      rw [exec_spindleLoss hr hv hh, if_neg hst]
    have hrecords : s.plans.records.map (lostRecord u.spindleEnding u.now) = s.plans.records.map (fun r =>
        if r.live then endedRecord r .spindle s.now
          ((s.burst.filter (fun b => decide (b.tag = r.tag))).map (fun b => b.report s.config.deviationThreshold))
          none none false
        else { r with releasePending := false }) := List.map_congr_left fun r _ => lostRecord_spindle s r
    have hlost : u.loseSpindle = { spindleStopped u with
        store := settledStore u, heads := (spindleSettled u).heads, table := [], peers := PeerBlock.cleared s.number,
        station := if s.station = .setup then .setup else .listen, fault := FaultWritten s.fault .spindleLost s.now } := by
      rw [loseSpindle_eq (s := u) hq, State.writeFault, writeFault_eq, spindleSettled_eq (s := u) hstore]
      rfl
    refine ⟨_, hloss.trans (congrArg _ hlost), ?_, setLaser_off_sent u, fun h => if_neg h, fun hpending => ?_,
      spindleSettled_heads_closed (s := u), fun b h m suspect hb hx hm hd =>
        spindleSettled_heads_open (s := u) hstore hq hb hx hm hd⟩
    · rw [← hrecords]
      rfl
    · obtain ⟨hactive, hlast, hbank, hstandby, -⟩ := s.store.completeSwap_frame
      have hdone : settledStore u = s.store.completeSwap := if_pos hpending
      rw [hdone]
      exact ⟨hactive, hstandby, hbank, hlast⟩
  · rw [exec_spindleLoss hr hv hh, if_pos hst, State.writeFault, writeFault_eq]
    rfl

end Sys2Proof.Machine
end

section
/-! PROOFS. The start of a frame of the station. -/

namespace Sys2Proof.Machine

/-! ### Listing order of a station's own claims (R15) -/

theorem insertBy_pairwise_on {α : Type} {before : α → α → Bool} {R : α → α → Prop} {P : α → Prop}
    (hbefore : ∀ a b, P a → P b → before a b = true → R a b)
    (hnot : ∀ a b, P a → P b → before a b = false → R b a)
    (htrans : ∀ a b c, P a → P b → P c → R a b → R b c → R a c) {x : α} (hx : P x) {l : List α}
    (hP : ∀ y ∈ l, P y) (hl : l.Pairwise R) : (insertBy before x l).Pairwise R := by
  induction l with
  | nil => simp [insertBy]
  | cons y ys ih =>
    obtain ⟨h1, h2⟩ := List.pairwise_cons.1 hl
    have hy := hP y List.mem_cons_self
    have hys : ∀ z ∈ ys, P z := fun z hz => hP z (List.mem_cons_of_mem _ hz)
    simp only [insertBy]
    split
    · rename_i hxy
      refine List.pairwise_cons.2 ⟨fun z hz => ?_, hl⟩
      rcases List.mem_cons.1 hz with rfl | hz
      · exact hbefore _ _ hx hy hxy
      · exact htrans _ _ _ hx hy (hys z hz) (hbefore _ _ hx hy hxy) (h1 z hz)
    · rename_i hxy
      refine List.pairwise_cons.2 ⟨fun z hz => ?_, ih hys h2⟩
      rcases List.mem_cons.1 ((insertBy_perm before x ys).mem_iff.1 hz) with rfl | hz
      · exact hnot _ _ hx hy (by simpa using hxy)
      · exact h1 z hz

/-- A claim of a station with its window start within a quarter of the time circle of now. -/
def OwnNear (own : Station) (now : Time) (e : Entry) : Prop :=
  e.station = own ∧ -262144 ≤ timeDiff e.windowStart now ∧ timeDiff e.windowStart now < 262144

/-- Window start by window start, claim number by claim number. -/
def InListingOrder (a b : Entry) : Prop :=
  timeDiff a.windowStart b.windowStart < 0 ∨ (a.windowStart = b.windowStart ∧ a.number ≤ b.number)

theorem listedBefore_true {own : Station} {now : Time} {a b : Entry} (ha : OwnNear own now a) (hb : OwnNear own now b)
    (h : listedBefore a b = true) : InListingOrder a b := by
  obtain ⟨hsa, -, -⟩ := ha
  obtain ⟨hsb, -, -⟩ := hb
  unfold listedBefore at h
  split at h
  · next heq =>
    rw [if_pos (hsa.trans hsb.symm), decide_eq_true_eq] at h
    exact .inr ⟨heq, h.le⟩
  · exact .inl ((timeBefore_iff _ _).1 h)

theorem listedBefore_false {own : Station} {now : Time} {a b : Entry} (ha : OwnNear own now a)
    (hb : OwnNear own now b) (h : listedBefore a b = false) : InListingOrder b a := by
  obtain ⟨hsa, halow, hahigh⟩ := ha
  obtain ⟨hsb, hblow, hbhigh⟩ := hb
  unfold listedBefore at h
  split at h
  · next heq =>
    rw [if_pos (hsa.trans hsb.symm), decide_eq_false_iff_not, not_lt] at h
    exact .inr ⟨heq.symm, h⟩
  · next hne =>
    rw [timeBefore_false_iff] at h
    have hnat : a.windowStart.toNat ≠ b.windowStart.toNat := fun heq => hne (BitVec.eq_of_toNat_eq heq)
    have := a.windowStart.isLt
    have := b.windowStart.isLt
    have := now.isLt
    have := timeDiff_cases a.windowStart now
    have := timeDiff_cases b.windowStart now
    have := timeDiff_cases a.windowStart b.windowStart
    have := timeDiff_cases b.windowStart a.windowStart
    exact .inl (by omega)

theorem inListingOrder_trans {own : Station} {now : Time} {a b c : Entry} (ha : OwnNear own now a)
    (hb : OwnNear own now b) (hc : OwnNear own now c) (hab : InListingOrder a b) (hbc : InListingOrder b c) :
    InListingOrder a c := by
  obtain ⟨-, halow, hahigh⟩ := ha
  obtain ⟨-, hblow, hbhigh⟩ := hb
  obtain ⟨-, hclow, hchigh⟩ := hc
  rcases hab with hab | ⟨hab, hnab⟩ <;> rcases hbc with hbc | ⟨hbc, hnbc⟩
  · have := a.windowStart.isLt
    have := b.windowStart.isLt
    have := c.windowStart.isLt
    have := now.isLt
    have := timeDiff_cases a.windowStart now
    have := timeDiff_cases b.windowStart now
    have := timeDiff_cases c.windowStart now
    have := timeDiff_cases a.windowStart b.windowStart
    have := timeDiff_cases b.windowStart c.windowStart
    have := timeDiff_cases a.windowStart c.windowStart
    exact .inl (by omega)
  · exact .inl (hbc ▸ hab)
  · exact .inl (hab ▸ hbc)
  · exact .inr ⟨hab.trans hbc, hnab.trans hnbc⟩

/-- The listing of a station's own claims is in listing order (R15). -/
theorem listing_inOrder {own : Station} {now : Time} {claims : List Entry} (h : ∀ e ∈ claims, OwnNear own now e) :
    (listing claims).Pairwise InListingOrder := by
  unfold listing
  induction claims with
  | nil => simp [sortBy]
  | cons x xs ih =>
    have hxs : ∀ e ∈ xs, OwnNear own now e := fun e he => h e (List.mem_cons_of_mem _ he)
    refine insertBy_pairwise_on (P := OwnNear own now) (fun a b ha hb hab => ?_) (fun a b ha hb hab => ?_)
      (fun a b c => inListingOrder_trans) (h x List.mem_cons_self)
      (fun y hy => hxs y ((sortBy_perm listedBefore xs).mem_iff.1 hy)) (ih hxs)
    · exact listedBefore_false hb ha (by simpa using hab)
    · exact listedBefore_true hb ha (by simpa using hab)

/-! ### The batch (Table 8-5) -/

/-- A batch has a first frame, of the first three claims, and of at most nine claims every frame has three at
most. -/
theorem batchFrames_cons (claims : List Entry) : ∃ f fs, batchFrames claims = f :: fs ∧ f = claims.take 3
    ∧ (fs = [] ↔ claims.length ≤ 3)
    ∧ (claims.length ≤ 9 → ∀ g ∈ fs, 1 ≤ g.length ∧ g.length ≤ 3) := by
  unfold batchFrames
  split
  · next h3 => exact ⟨_, _, rfl, (List.take_of_length_le h3).symm, iff_of_true rfl h3, fun _ g hg => nomatch hg⟩
  · next h3 =>
    split
    · next h6 =>
      refine ⟨_, _, rfl, rfl, iff_of_false (by simp) h3, fun _ g hg => ?_⟩
      rw [List.mem_singleton.1 hg, List.length_drop]
      omega
    · next h6 =>
      refine ⟨_, _, rfl, rfl, iff_of_false (by simp) h3, fun h9 g hg => ?_⟩
      rcases List.mem_cons.1 hg with rfl | hg
      · rw [List.length_take, List.length_drop]
        omega
      · rw [List.mem_singleton.1 hg, List.length_drop]
        omega

/-! ### The frame that starts (R133) -/

theorem exec_frameStart_first {s : State} {idle : Nat} {pre post : List TxEntry} {e : TxEntry}
    (hwait : WaitEnded s idle) (hst : s.station = .joining ∨ s.station = .active)
    (hq : s.link.queue = pre ++ e :: post) (hpre : ∀ x ∈ pre, HeldBack s x) (he : ¬ HeldBack s e) :
    exec (.frameStart idle) s = .next { s with
      link := Sending s.link (s.startedEntry e :: (pre ++ post)) (s.frameContent (s.startedEntry e)),
      plans := s.plans.startClaim e } := by
  obtain ⟨hfind, herase⟩ := find_eligible hst hq hpre he
  have hfirst : exec (.frameStart idle) s = .next (s.startFrame e) := by
    refine congrArg _ ((if_pos ((mayStart_iff s idle).2 hwait)).trans ?_)
    rw [hfind]
  rw [hfirst, State.startFrame, herase]
  rfl

theorem exec_frameStart_none {s : State} {idle : Nat} (h : s.mayStart idle = true → s.link.queue.find? s.eligible = none) :
    exec (.frameStart idle) s = .next s := by
  by_cases hmay : s.mayStart idle = true
  · refine congrArg _ ((if_pos hmay).trans ?_)
    rw [h hmay]
  · exact congrArg _ (if_neg hmay)

theorem find_eligible_silent {s : State} (h : s.station = .setup ∨ s.station = .listen ∨ s.station = .halted) :
    s.link.queue.find? s.eligible = none := by
  refine List.find?_eq_none.2 fun x _ => ?_
  rcases h with h | h | h <;> simp [State.eligible, h]

theorem find_eligible_held {s : State} (h : ∀ x ∈ s.link.queue, HeldBack s x) :
    s.link.queue.find? s.eligible = none := by
  by_cases hst : s.station = .joining ∨ s.station = .active
  · exact List.find?_eq_none.2 fun x hx hel => (eligible_iff s hst x).1 hel (h x hx)
  · refine find_eligible_silent ?_
    cases hs : s.station <;> simp [hs] at hst ⊢

theorem sentDigest_eq (s : State) : s.sentDigest = digest (Purged s.table s.now) :=
  congrArg digest (purge_eq s.table s.now)

theorem ownLiveClaims_eq (table : List Entry) (own : Station) (now : Time) : ownLiveClaims table own now
    = table.filter (fun c => decide (c.station = own ∧ 0 < timeDiff c.windowEnd now)) :=
  List.filter_congr fun c _ => by simp [timeAfter]

theorem startedEntry_announce (s : State) (again : Bool) {f : List Entry} {fs : List (List Entry)}
    (h : batchFrames (listing (ownLiveClaims s.table s.number s.now)) = f :: fs) :
    s.startedEntry (.announce none again) = .announce (some (f :: fs)) again :=
  congrArg (fun b => TxEntry.announce (some b) again) h

theorem frameContent_announce (s : State) (again : Bool) (f : List Entry) (fs : List (List Entry)) :
    s.frameContent (.announce (some (f :: fs)) again) = .announce (decide (fs = [])) f := by
  cases fs <;> simp [State.frameContent]

/-- Settles O45. -/
theorem frameStartTakesFirstEligibleEntry : Obligations.FrameStartTakesFirstEligibleEntry := by
  intro s idle
  refine ⟨fun pre e post hwait hst hq hpre he => ?_, fun hnone => ?_⟩
  · have hstart := exec_frameStart_first hwait hst hq hpre he
    refine ⟨?_, ?_, ?_, ?_, ?_, ?_, ?_, ?_⟩
    · rintro n k ws we l rfl
      exact hstart
    · rintro n x rfl
      exact hstart
    · rintro rfl
      rw [hstart, ← sentDigest_eq, ← ownLiveClaims_eq]
      rfl
    · rintro rfl
      exact hstart
    · rintro rfl
      exact hstart
    · rintro rfl
      rw [hstart, ← sentDigest_eq]
      rfl
    · rintro again rfl
      have hperm : (listing (ownLiveClaims s.table s.number s.now)).Perm (ownLiveClaims s.table s.number s.now) :=
        sortBy_perm _ _
      obtain ⟨f, fs, hbatch, hf, hfs, hlen⟩ :=
        batchFrames_cons (listing (ownLiveClaims s.table s.number s.now))
      refine ⟨_, f, fs, by rw [← ownLiveClaims_eq]; exact hperm, fun hnear => ?_, ?_, hf, hfs, hlen, ?_⟩
      · refine (listing_inOrder (own := s.number) (now := s.now) fun e he => ?_ :)
        obtain ⟨hlow, hhigh⟩ := hnear e (hperm.mem_iff.2 he)
        simp only [ownLiveClaims, List.mem_filter, Bool.and_eq_true, decide_eq_true_eq] at he
        obtain ⟨-, hown, -⟩ := he
        exact ⟨hown, hlow, hhigh⟩
      · rw [← hbatch]
        exact batchFrames_flatten _
      · rw [hstart, startedEntry_announce s again hbatch, frameContent_announce, decide_eq_decide.2 hfs]
        rfl
    · rintro f fs again rfl
      have hcontent := frameContent_announce s again f fs
      rw [hstart, ← hcontent]
      rfl
  · refine exec_frameStart_none fun hmay => ?_
    rcases hnone with h | h | h | h | h
    · exact absurd ((mayStart_iff s idle).1 hmay) h
    · exact find_eligible_silent (.inl h)
    · exact find_eligible_silent (.inr (.inl h))
    · exact find_eligible_silent (.inr (.inr h))
    · exact find_eligible_held h

end Sys2Proof.Machine
end

section
/-! PROOFS. The loopback of the station's own frames. -/

namespace Sys2Proof.Machine

/-! ### The record at its loopback (Table 3-7) -/

theorem nowFenced_iff (s : State) (r : Record) :
    s.nowFenced r = true ↔ r.kind = .write ∧ Fenced s.restrictions.fence r.zone := by
  rw [State.nowFenced, Bool.and_eq_true, decide_eq_true_eq, covers_iff]

theorem nowSuspect_iff (s : State) (r : Record) :
    s.nowSuspect r = true ↔ r.kind = .write ∧ (s.headRecord r.head).state = .suspect := by
  rw [State.nowSuspect, Bool.and_eq_true, decide_eq_true_eq, decide_eq_true_eq]

/-- The record of an admitted claim by the first row of Table 3-7 that holds. -/
theorem claimVerdict_admitted (s : State) (r : Record) (hint : Option Time) {result : Option PlanOutcome}
    (h : FirstOf
      [(r.cancel ≠ none, some PlanOutcome.cancelled),
       (r.kind = .write ∧ Fenced s.restrictions.fence r.zone, some .fenced),
       (r.kind = .write ∧ (s.headRecord r.head).state = .suspect, some .headSuspect),
       (timeBefore s.now r.windowStart = false, some .late),
       (True, none)] result) :
    s.claimVerdict r .admitted hint = match (generalizing := false) result with
      | none => s.updateRecord r.tag (fun x => { x with state := .granted })
      | some o => s.finish r { outcome := o, release := some r.windowStart } := by
  simp only [firstOf_cons, firstOf_nil, ← nowFenced_iff, ← nowSuspect_iff,
    timeBefore_false_iff, ← reached_iff] at h
  unfold State.claimVerdict
  rcases h with ⟨hc, rfl⟩ | ⟨hc, h⟩
  · exact if_pos (Option.isSome_iff_ne_none.2 hc)
  rw [if_neg fun hsome => hc (Option.isSome_iff_ne_none.1 hsome)]
  rcases h with ⟨hf, rfl⟩ | ⟨hf, h⟩
  · exact if_pos hf
  rw [if_neg hf]
  rcases h with ⟨hs, rfl⟩ | ⟨hs, h⟩
  · exact if_pos hs
  rw [if_neg hs]
  rcases h with ⟨hl, rfl⟩ | ⟨hl, h⟩
  · exact if_pos hl
  obtain ⟨-, rfl⟩ | ⟨-, h⟩ := h
  · exact if_neg hl
  · exact h.elim

/-- The record of a claim that is not admitted, by the first row of Table 3-7 that holds; the hint stands where
the claim itself is denied. -/
theorem claimVerdict_refused (s : State) (r : Record) {v : Verdict} (hv : v = .denied ∨ v = .protocolError)
    (hint : Option Time) {o : PlanOutcome}
    (h : FirstOf
      [(r.cancel ≠ none, PlanOutcome.cancelled),
       (r.kind = .write ∧ Fenced s.restrictions.fence r.zone, .fenced),
       (r.kind = .write ∧ (s.headRecord r.head).state = .suspect, .headSuspect),
       (True, .denied)] o) :
    s.claimVerdict r v hint
      = s.finish r { outcome := o, hint := if o = .denied ∧ v = .denied then hint else none } := by
  have hrelease : (if v = .admitted then some r.windowStart else none) = none :=
    if_neg (by rcases hv with rfl | rfl <;> decide)
  simp only [firstOf_cons, firstOf_nil, ← nowFenced_iff, ← nowSuspect_iff] at h
  unfold State.claimVerdict
  rw [hrelease]
  rcases h with ⟨hc, rfl⟩ | ⟨hc, h⟩
  · exact if_pos (Option.isSome_iff_ne_none.2 hc)
  rw [if_neg fun hsome => hc (Option.isSome_iff_ne_none.1 hsome)]
  rcases h with ⟨hf, rfl⟩ | ⟨hf, h⟩
  · exact if_pos hf
  rw [if_neg hf]
  rcases h with ⟨hs, rfl⟩ | ⟨hs, h⟩
  · exact if_pos hs
  rw [if_neg hs]
  obtain ⟨-, rfl⟩ | ⟨-, h⟩ := h
  · rcases hv with rfl | rfl <;> rfl
  · exact h.elim

theorem finish_claiming_link {s : State} {r : Record} (hr : r.state = .claiming) (e : Ending) : (s.finish r e).link
    = match e.release with
      | none => s.link
      | some x => { s.link with queue := s.link.queue ++ [.release r.claim x] } := by
  have hlink : (s.finish r e).link = s.link.finishing r e.release := rfl
  rw [hlink]
  simp only [Link.finishing, hr, reduceCtorEq, if_false]
  rfl

/-! ### The Share Table at the loopback -/

theorem Purged.spansKept {s : State} (h : TableSound s) (stamp : Time) : SpansKept (Purged s.table stamp) :=
  fun e he => h.spansKept e (List.mem_of_mem_filter he)

/-- Room is what R22 tests, for a window of an allowed span. -/
theorem room_iff {s : State} (h : TableSound s) {stamp ws we : Time} (hspan : 1 ≤ timeDiff we ws)
    (hspan' : timeDiff we ws ≤ 3584) (level : Nat) : Room s.table s.config.bTotal stamp ws we level ↔
      (Purged s.table stamp).length < 32
      ∧ fitsBudget (Purged s.table stamp) s.config.bTotal ws we level = true := by
  rw [Room, fitsBudget_iff (Purged.spansKept h stamp) hspan hspan']

theorem admission_room {s : State} (h : TableSound s) {n : Station} {stamp ws we : Time} {number kind level : Byte}
    (hin : ClaimInLimits s.table n stamp number.toNat ws we level.toNat ∧ (kind = 0 ∨ kind = 1))
    (hroom : Room s.table s.config.bTotal stamp ws we level.toNat) :
    admission (purge s.table stamp) s.config.bTotal n stamp number kind ws we level
      = (.admitted, Purged s.table stamp ++
        [{ station := n, number := number.toNat, windowStart := ws, windowEnd := we, level := level.toNat,
           kind := if kind = 0 then .write else .cal, origin := .admitted }]) := by
  obtain ⟨⟨-, -, -, -, hspan, hspan', -⟩, -⟩ := id hin
  rw [purge_eq, admission_within _ _ _ _ _ _ _ _ _ hin, if_pos ((room_iff h hspan hspan' _).1 hroom)]

theorem admission_full {s : State} (h : TableSound s) {n : Station} {stamp ws we : Time} {number kind level : Byte}
    (hin : ClaimInLimits s.table n stamp number.toNat ws we level.toNat ∧ (kind = 0 ∨ kind = 1))
    (hroom : ¬ Room s.table s.config.bTotal stamp ws we level.toNat) :
    admission (purge s.table stamp) s.config.bTotal n stamp number kind ws we level
      = (.denied, Purged s.table stamp) := by
  obtain ⟨⟨-, -, -, -, hspan, hspan', -⟩, -⟩ := id hin
  rw [purge_eq, admission_within _ _ _ _ _ _ _ _ _ hin, if_neg fun hr => hroom ((room_iff h hspan hspan' _).2 hr)]

theorem releaseError_iff (stamp x : Time) (number : Byte) :
    releaseError stamp number x = true ↔ 15 < number.toNat ∨ 0 < timeDiff x (timePlus stamp 8192) := by
  rw [releaseError, Bool.or_eq_true, decide_eq_true_eq, timeAfter_iff]
  rfl

theorem errorTaken_eq (s : State) : s.errorTaken = if s.peers.requester then GivenUp s else Desynced s true := by
  rw [State.errorTaken, abandon_eq, desyncIf_eq]

end Sys2Proof.Machine
end

section
/-! PROOFS. The completion of a frame of the station. -/

namespace Sys2Proof.Machine

/-! ### The frame ends (R133) -/

theorem exec_completes {s : State} (hr : s.pins.rstn = true) {f : LinkFrame} {e : TxEntry} {rest : List TxEntry}
    (hon : s.link.onLine = some ⟨f, false⟩) (hq : s.link.queue = e :: rest) : exec .transmissionCompletes s
      = .next (State.loopback { s with link := Sent s.link (afterSent (e :: rest)) } f) := by
  have hcomplete : exec .transmissionCompletes s = .next (s.complete ⟨f, false⟩) := by
    refine congrArg Host.Outcome.next ?_
    rw [hon]
    exact if_pos hr
  rw [hcomplete, ← hq]
  rfl

theorem exec_completes_discarded {s : State} (hr : s.pins.rstn = true) {f : LinkFrame}
    (hon : s.link.onLine = some ⟨f, true⟩) :
    exec .transmissionCompletes s = .next { s with link := Sent s.link s.link.queue } := by
  refine congrArg Host.Outcome.next ?_
  rw [hon]
  exact if_pos hr

theorem exec_completes_nothing {s : State} (hon : s.link.onLine = none) :
    exec .transmissionCompletes s = .next s := by
  refine congrArg Host.Outcome.next ?_
  rw [hon]

/-! ### The loopback of a CLAIM (R23, R47) -/

theorem loopClaim_eq {s : State} {stamp ws we : Time} {n level : Nat} {k : PlanKind} {a : Verdict × List Entry}
    (ha : admission (purge s.table stamp) s.config.bTotal s.number stamp (BitVec.ofNat 8 n) (kindByte k) ws we
      (BitVec.ofNat 8 level) = a) {r : Record} (hr : s.plans.claiming n = some r) {u : State}
    (hu : State.claimVerdict { s with table := a.2 } r a.1
      (if a.1 = .denied then hintFor a.2 s.config.bTotal s.now ws we level else none) = u) :
    s.loopClaim stamp n k ws we level = if a.1 = .protocolError then u.errorTaken else u := by
  subst ha hu
  unfold State.loopClaim
  simp only [hr]

theorem byte_toNat {n : Nat} (h : n < 256) : (BitVec.ofNat 8 n).toNat = n := by
  simp only [BitVec.toNat_ofNat]
  omega

theorem kindByte_known (k : PlanKind) : kindByte k = 0 ∨ kindByte k = 1 := by
  cases k
  · exact .inl rfl
  · exact .inr rfl

theorem kind_of_kindByte (k : PlanKind) : (if kindByte k = 0 then PlanKind.write else .cal) = k := by
  cases k <;> rfl

section
variable {s : State} {stamp ws we : Time} {n level : Nat} (k : PlanKind) (hn : n < 256) (hl : level < 256)

include hn hl

/-- The fields of an own CLAIM are read from its bytes as they were sent. -/
theorem ownClaim_inLimits (hin : ClaimInLimits s.table s.number stamp n ws we level) :
    ClaimInLimits s.table s.number stamp (BitVec.ofNat 8 n).toNat ws we (BitVec.ofNat 8 level).toNat
      ∧ (kindByte k = 0 ∨ kindByte k = 1) := by
  rw [byte_toNat hn, byte_toNat hl]
  exact ⟨hin, kindByte_known k⟩

theorem ownClaim_admitted (ht : TableSound s) (hin : ClaimInLimits s.table s.number stamp n ws we level)
    (hroom : Room s.table s.config.bTotal stamp ws we level) :
    admission (purge s.table stamp) s.config.bTotal s.number stamp (BitVec.ofNat 8 n) (kindByte k) ws we
      (BitVec.ofNat 8 level) = (.admitted, Purged s.table stamp ++
        [{ station := s.number, number := n, windowStart := ws, windowEnd := we, level := level, kind := k,
           origin := .admitted }]) := by
  rw [admission_room ht (ownClaim_inLimits k hn hl hin) (by rwa [byte_toNat hl]), byte_toNat hn, byte_toNat hl,
    kind_of_kindByte]

theorem ownClaim_denied (ht : TableSound s) (hin : ClaimInLimits s.table s.number stamp n ws we level)
    (hroom : ¬ Room s.table s.config.bTotal stamp ws we level) :
    admission (purge s.table stamp) s.config.bTotal s.number stamp (BitVec.ofNat 8 n) (kindByte k) ws we
      (BitVec.ofNat 8 level) = (.denied, Purged s.table stamp) :=
  admission_full ht (ownClaim_inLimits k hn hl hin) (by rwa [byte_toNat hl])

theorem ownClaim_error (hin : ¬ ClaimInLimits s.table s.number stamp n ws we level) :
    admission (purge s.table stamp) s.config.bTotal s.number stamp (BitVec.ofNat 8 n) (kindByte k) ws we
      (BitVec.ofNat 8 level) = (.protocolError, Purged s.table stamp) := by
  rw [purge_eq]
  refine admission_outside _ _ _ _ _ _ _ _ _ fun h => hin ?_
  rw [byte_toNat hn, byte_toNat hl] at h
  exact h.1

end

/-! ### The station as a requester (R154) -/

theorem ofNat_range (n : Station) : ∃ i ∈ List.range 8, BitVec.ofNat 3 i = n :=
  ⟨n.toNat, List.mem_range.2 n.isLt, BitVec.ofNat_toNat 3 n⟩

theorem mem_stations {p : PeerBlock} {f : PeerEntry → Bool} {n : Station} :
    n ∈ p.stations f ↔ f (p.entry n) = true := by
  rw [PeerBlock.stations, List.mem_filter, List.mem_map]
  exact and_iff_right (ofNat_range n)

/-- No peer has announced once the flags are cleared. -/
theorem entry_clearAnnounced {p : PeerBlock} {table : List PeerEntry} (h : p.table = clearAnnounced table)
    (n : Station) : (p.entry n).announced = false := by
  rw [PeerBlock.entry, h, clearAnnounced, List.getD_eq_getElem?_getD, List.getElem?_map]
  cases table[n.toNat]? <;> rfl

theorem becomeRequester_eq (s : State) {awaited : List Station}
    (ha : s.peers.stations (fun e => decide (e.state = .active)) = awaited) : s.becomeRequester = { s with
      table := s.table.filter (fun c => decide (c.station = s.number)),
      link := { s.link with queue :=
        if awaited = [] ∧ TxEntry.syncDone ∉ s.link.queue then s.link.queue ++ [.syncDone] else s.link.queue },
      peers := { s.peers with
        sync := .resyncing, requester := true, awaited := awaited, requesterPulses := 0, reRequest := false,
        table := s.peers.table.map (fun p => { p with announced := false }) } } := by
  let asking : State := { s with
    table := s.table.filter (fun c => decide (c.station = s.number)),
    peers := { s.peers with
      sync := .resyncing, requester := true, awaited := awaited, requesterPulses := 0, reRequest := false,
      table := s.peers.table.map (fun p => { p with announced := false }) } }
  have hasking : s.becomeRequester = asking.completeIfCollected := by
    unfold State.becomeRequester
    rw [ha]
    rfl
  have hcollected : (asking.peers.requester
      && asking.peers.awaited.all (fun n => (asking.peers.entry n).announced)) = true ↔ awaited = [] := by
    cases awaited with
    | nil => exact iff_of_true rfl rfl
    | cons n ns =>
      have hnot := entry_clearAnnounced (p := asking.peers) (table := s.peers.table) rfl n
      refine iff_of_false ?_ (by simp)
      simp [asking] at hnot ⊢
      simp [hnot]
  rw [hasking, State.completeIfCollected]
  by_cases hempty : awaited = []
  · rw [if_pos (hcollected.2 hempty), enqueueOnce_eq _ (.inr rfl), AddedOnce]
    by_cases hin : TxEntry.syncDone ∈ s.link.queue
    · rw [if_pos (show TxEntry.syncDone ∈ asking.link.queue from hin), if_neg fun h => h.2 hin]
    · rw [if_neg (show TxEntry.syncDone ∉ asking.link.queue from hin), if_pos ⟨hempty, hin⟩]
  · rw [if_neg fun h => hempty (hcollected.1 h), if_neg fun h => hempty h.1]

end Sys2Proof.Machine
end

section
/-! PROOFS. What the loopback of each kind of frame does. -/

namespace Sys2Proof.Machine

/-- The record of a CLAIM that is not admitted. -/
theorem refused_eq {s : State} {r : Record} (hrc : r.state = .claiming) {v : Verdict} (hv : v = .denied ∨ v = .protocolError)
    (rest : List TxEntry)
    (table : List Entry) (hint : Option Time) {o : PlanOutcome}
    (ho : FirstOf
      [(r.cancel ≠ none, PlanOutcome.cancelled),
       (r.kind = .write ∧ Fenced s.restrictions.fence r.zone, .fenced),
       (r.kind = .write ∧ (s.headRecord r.head).state = .suspect, .headSuspect),
       (True, .denied)] o) :
    State.claimVerdict { s with link := Sent s.link rest, table := table } r v hint = { s with
      link := Sent s.link rest, table := table,
      plans := { s.plans with
        records := s.plans.records.map (fun x => if x.tag = r.tag then
          { endedRecord x o s.now none none none false with
            hint := if o = .denied ∧ v = .denied then hint else none } else x),
        finished := s.plans.finished ++ [r.tag] } } := by
  let u : State := { s with link := Sent s.link rest, table := table }
  let ending : Ending := { outcome := o, hint := if o = .denied ∧ v = .denied then hint else none }
  have hlink : (u.finish r ending).link = u.link := finish_claiming_link (s := u) hrc ending
  have hfinish : u.finish r ending = { u with
      plans := u.plans.finish r.tag ending u.now, link := (u.finish r ending).link } := rfl
  refine (claimVerdict_refused u r hv hint ho).trans (hfinish.trans ?_)
  rw [hlink]
  rfl

theorem afterSent_announce (f : List Entry) (fs : List (List Entry)) (again : Bool) (q : List TxEntry) :
    afterSent (.announce (some (f :: fs)) again :: q)
      = if fs ≠ [] then .announce (some fs) again :: q else if again then .announce none false :: q else q := by
  cases fs with
  | cons g gs => rfl
  | nil => cases again <;> rfl

section
variable {s : State} {e : TxEntry} {rest : List TxEntry} (hr : s.pins.rstn = true)
  (hst : s.station = .joining ∨ s.station = .active) (hq : s.link.queue = e :: rest)

include hr hst hq

/-! ### An own CLAIM (R23, R47) -/

section
variable {stamp ws we : Time} {n level : Nat} {k : PlanKind} {r : Record}
  (hon : s.link.onLine = some ⟨.claim stamp n k ws we level, false⟩) (he : e = .claim n k ws we level)
  (hclaiming : s.plans.claiming n = some r)

include hon he hclaiming

theorem completes_claim {a : Verdict × List Entry}
    (ha : admission (purge s.table stamp) s.config.bTotal s.number stamp (BitVec.ofNat 8 n) (kindByte k) ws we
      (BitVec.ofNat 8 level) = a) {u : State}
    (hu : State.claimVerdict { s with link := Sent s.link rest, table := a.2 } r a.1
      (if a.1 = .denied then hintFor a.2 s.config.bTotal s.now ws we level else none) = u) :
    exec .transmissionCompletes s = .next (if a.1 = .protocolError then u.errorTaken else u) := by
  subst he
  let v : State := { s with link := Sent s.link rest }
  have htakes : v.takesFrames = true := (takesFrames_iff v).2 hst
  refine (exec_completes hr hon hq).trans (congrArg _ ((if_pos htakes).trans ?_))
  exact loopClaim_eq (s := v) ha hclaiming hu

/-- The record of an admitted CLAIM as Table 3-7 leaves it, with its place in the transmit queue. -/
theorem completes_claim_admitted (hrc : r.state = .claiming) (hrn : r.claim = n) {table : List Entry}
    (ha : admission (purge s.table stamp) s.config.bTotal s.number stamp (BitVec.ofNat 8 n) (kindByte k) ws we
      (BitVec.ofNat 8 level) = (.admitted, table)) {result : Option PlanOutcome}
    (hresult : FirstOf
      [(r.cancel ≠ none, some PlanOutcome.cancelled),
       (r.kind = .write ∧ Fenced s.restrictions.fence r.zone, some .fenced),
       (r.kind = .write ∧ (s.headRecord r.head).state = .suspect, some .headSuspect),
       (timeBefore s.now r.windowStart = false, some .late),
       (True, none)] result) :
    exec .transmissionCompletes s = .next { s with
      link := Sent s.link (match (generalizing := false) result with
        | none => rest
        | some _ => rest ++ [.release n r.windowStart]),
      plans := (match (generalizing := false) result with
        | none => s.plans.update r.tag (fun x => { x with state := .granted })
        | some o => { s.plans with
            records := s.plans.records.map (fun x =>
              if x.tag = r.tag then endedRecord x o s.now none none none true else x),
            finished := s.plans.finished ++ [r.tag] }),
      table := table } := by
  let v : State := { s with link := Sent s.link rest, table := table }
  have hverdict := claimVerdict_admitted v r none hresult
  refine (completes_claim hr hst hq hon he hclaiming ha hverdict).trans ?_
  cases result with
  | none => rfl
  | some o =>
    have hlink : (v.finish r { outcome := o, release := some r.windowStart }).link
        = { v.link with queue := v.link.queue ++ [.release r.claim r.windowStart] } :=
      finish_claiming_link (s := v) hrc _
    have hfinish : v.finish r { outcome := o, release := some r.windowStart } = { v with
        plans := v.plans.finish r.tag { outcome := o, release := some r.windowStart } v.now,
        link := { v.link with queue := v.link.queue ++ [.release r.claim r.windowStart] } } := by
      rw [← hlink]
      rfl
    refine congrArg _ (hfinish.trans ?_)
    rw [hrn]
    rfl

end

/-! ### The other kinds (R24, R25, R138, R141, R154, R156) -/

theorem completes_release {stamp x : Time} {n : Nat} (hon : s.link.onLine = some ⟨.release stamp n x, false⟩)
    (he : e = .release n x) (hn : n ≤ 15) (hx : timeDiff x (timePlus stamp 8192) ≤ 0) :
    exec .transmissionCompletes s = .next { s with
      link := Sent s.link rest, table := Released (Purged s.table stamp) s.number n x,
      plans := { s.plans with records := s.plans.records.map (fun r =>
        if r.releasePending = true ∧ r.claim = n then { r with releasePending := false } else r) } } := by
  subst he
  let v : State := { s with link := Sent s.link rest }
  have htakes : v.takesFrames = true := (takesFrames_iff v).2 hst
  have hok : releaseError stamp (BitVec.ofNat 8 n) x = false := by
    rw [← Bool.not_eq_true, releaseError_iff, byte_toNat (by omega)]
    omega
  have hloop : v.loopRelease stamp n x = { v with
      table := applyRelease (purge s.table stamp) s.number n x, plans := s.plans.releaseSent n } := by
    unfold State.loopRelease
    simp only [hok]
    rfl
  refine (exec_completes hr hon hq).trans (congrArg _ ((if_pos htakes).trans (hloop.trans ?_)))
  rw [applyRelease_eq, purge_eq]
  rfl

theorem completes_beacon {stamp : Time} {d : BitVec 16} {c : Nat} {y : SyncState}
    (hon : s.link.onLine = some ⟨.beacon stamp d c y, false⟩) (he : e = .beacon) :
    exec .transmissionCompletes s = .next { s with link := Sent s.link rest, table := Purged s.table stamp } := by
  subst he
  let v : State := { s with link := Sent s.link rest }
  have htakes : v.takesFrames = true := (takesFrames_iff v).2 hst
  refine (exec_completes hr hon hq).trans (congrArg _ ((if_pos htakes).trans ?_))
  rw [← purge_eq]
  rfl

theorem completes_join {stamp : Time} {u : BitVec 32} (hon : s.link.onLine = some ⟨.join stamp u, false⟩)
    (he : e = .join) (hjoining : s.station = .joining) : exec .transmissionCompletes s = .next { s with
      table := [],
      link := Sent s.link
        (if s.peers.stations (fun p => decide (p.state = .active)) = [] ∧ TxEntry.syncDone ∉ rest
          then rest ++ [.syncDone]
          else rest),
      peers := { s.peers with
        joinSent := true, sync := .resyncing, requester := true,
        awaited := s.peers.stations (fun p => decide (p.state = .active)), requesterPulses := 0,
        reRequest := false, table := s.peers.table.map (fun p => { p with announced := false }) } } := by
  subst he
  let v : State := { s with link := Sent s.link rest }
  have htakes : v.takesFrames = true := (takesFrames_iff v).2 hst
  let w : State := { v with
    table := removeStation (purge s.table stamp) s.number, peers := { s.peers with joinSent := true } }
  have hempty : (removeStation (purge s.table stamp) s.number).filter (fun c => decide (c.station = s.number)) = [] :=
    List.filter_eq_nil_iff.2 fun c hc => by
      have hother := List.of_mem_filter hc
      simpa using hother
  have hrequester := becomeRequester_eq w rfl
  refine (exec_completes hr hon hq).trans (congrArg _ ((if_pos htakes).trans ((if_pos hjoining).trans ?_)))
  refine (hrequester.trans ?_ :)
  rw [← hempty]
  rfl

theorem completes_syncRequest (hon : s.link.onLine = some ⟨.syncRequest, false⟩) (he : e = .syncRequest)
    (hactive : s.station = .active) (hdesync : s.peers.sync = .desync) :
    exec .transmissionCompletes s = .next { s with
      table := s.table.filter (fun c => decide (c.station = s.number)),
      link := Sent s.link
        (if s.peers.stations (fun p => decide (p.state = .active)) = [] ∧ TxEntry.syncDone ∉ rest
          then rest ++ [.syncDone]
          else rest),
      peers := { s.peers with
        sync := .resyncing, requester := true,
        awaited := s.peers.stations (fun p => decide (p.state = .active)), requesterPulses := 0,
        reRequest := false, table := s.peers.table.map (fun p => { p with announced := false }) } } := by
  subst he
  let v : State := { s with link := Sent s.link rest }
  have htakes : v.takesFrames = true := (takesFrames_iff v).2 hst
  exact (exec_completes hr hon hq).trans (congrArg _ ((if_pos htakes).trans
    ((if_pos ⟨hactive, hdesync⟩).trans (becomeRequester_eq v rfl))))

theorem completes_syncDone {stamp : Time} {d : BitVec 16} (hon : s.link.onLine = some ⟨.syncDone stamp d, false⟩)
    (he : e = .syncDone) (hrequester : s.peers.requester = true) :
    exec .transmissionCompletes s = .next { s with
      link := Sent s.link rest, table := Purged s.table stamp, station := .active,
      peers := { s.peers with sync := .inSync, requester := false, awaited := [] } } := by
  subst he
  let v : State := { s with link := Sent s.link rest }
  have htakes : v.takesFrames = true := (takesFrames_iff v).2 hst
  have hactive : (if s.station = .joining then .active else s.station) = StationState.active := by
    split
    · rfl
    · exact hst.resolve_left ‹_›
  refine (exec_completes hr hon hq).trans (congrArg _ ((if_pos htakes).trans ((if_pos hrequester).trans ?_)))
  rw [← hactive, ← purge_eq]
  rfl

theorem completes_announce {final : Bool} {es f : List Entry} {fs : List (List Entry)} {again : Bool}
    (hon : s.link.onLine = some ⟨.announce final es, false⟩) (he : e = .announce (some (f :: fs)) again) :
    exec .transmissionCompletes s = .next { s with
      link := Sent s.link (if fs ≠ [] then .announce (some fs) again :: rest
        else if again then .announce none false :: rest else rest) } := by
  subst he
  rw [← afterSent_announce]
  let v : State := { s with link := Sent s.link (afterSent (.announce (some (f :: fs)) again :: rest)) }
  have htakes : v.takesFrames = true := (takesFrames_iff v).2 hst
  exact (exec_completes hr hon hq).trans (congrArg _ (if_pos htakes))

end

/-- Settles O46. -/
theorem transmissionCompletesWithLoopback : Obligations.TransmissionCompletesWithLoopback := by
  intro s hr
  refine ⟨fun f hon => exec_completes_discarded hr hon, exec_completes_nothing, fun hst e rest hq => ?_⟩
  refine ⟨?_, fun stamp n x hon he => completes_release hr hst hq hon he,
    fun stamp d c y hon he => completes_beacon hr hst hq hon he,
    fun stamp u hon he hjoining => ⟨_, fun n => ?_, completes_join hr hst hq hon he hjoining⟩,
    fun hon he hactive hdesync => ⟨_, fun n => ?_, completes_syncRequest hr hst hq hon he hactive hdesync⟩,
    fun stamp d hon he => completes_syncDone hr hst hq hon he,
    fun final es f fs again hon he => completes_announce hr hst hq hon he⟩
  · intro stamp n k ws we level r hon he hqueue htable hn hl hrm hrc hrn
    have hclaiming : s.plans.claiming n = some r := hrn ▸ claiming_of_mem hqueue hrm hrc
    refine ⟨fun hin hroom result hresult => ?_, fun o ho => ⟨fun hin hroom => ?_, fun hin u hu => ?_⟩⟩
    · have hverdict := ownClaim_admitted k hn hl htable hin hroom
      exact completes_claim_admitted hr hst hq hon he hclaiming hrc hrn hverdict hresult
    · have hverdict := ownClaim_denied k hn hl htable hin hroom
      have hrefused := refused_eq hrc (.inl rfl) rest (Purged s.table stamp)
        (hintFor (Purged s.table stamp) s.config.bTotal s.now ws we level) ho
      refine (completes_claim hr hst hq hon he hclaiming hverdict hrefused).trans ?_
      simp
    · have hverdict := ownClaim_error k hn hl hin
      have hrefused := refused_eq hrc (.inr rfl) rest (Purged s.table stamp) none ho
      have herror : exec .transmissionCompletes s = .next u.errorTaken := by
        refine (completes_claim hr hst hq hon he hclaiming hverdict hrefused).trans ?_
        rw [hu]
        simp [endedRecord]
      have hpeers : u.peers = s.peers := by rw [hu]
      rw [herror, errorTaken_eq, hpeers]
      exact ⟨fun h => congrArg _ (if_pos h), fun h => congrArg _ (if_neg (Bool.eq_false_iff.1 h))⟩
  · rw [mem_stations, decide_eq_true_eq]
  · rw [mem_stations, decide_eq_true_eq]

end Sys2Proof.Machine
end

section
/-! PROOFS. Collisions. -/

namespace Sys2Proof.Machine

/-! ### The frame stops (R134, R135, R142) -/

theorem exec_collision {s : State} (hr : s.pins.rstn = true) {o : OnLine} (hon : s.link.onLine = some o) :
    exec .collision s = .next (s.collide o) := by
  refine congrArg Host.Outcome.next ?_
  rw [hon]
  exact if_pos hr

theorem exec_collision_nothing {s : State} (hon : s.link.onLine = none) : exec .collision s = .next s := by
  refine congrArg Host.Outcome.next ?_
  rw [hon]

theorem collidedOnce_eq {l : Link} {e : TxEntry} {rest : List TxEntry} (hq : l.queue = e :: rest) :
    l.collidedOnce = Collided l e := by
  unfold Link.collidedOnce
  rw [hq, List.head?_cons, Option.map_some]
  rfl

theorem claimNumber_none {f : LinkFrame} (h : ∀ stamp n k ws we level, f ≠ .claim stamp n k ws we level) :
    f.claimNumber = none := by
  cases f with
  | claim stamp n k ws we level => exact absurd rfl (h stamp n k ws we level)
  | _ => rfl

section
variable {s : State} {f : LinkFrame} {e : TxEntry} {rest : List TxEntry} (hr : s.pins.rstn = true)
  (hon : s.link.onLine = some ⟨f, false⟩) (hq : s.link.queue = e :: rest)

include hr hon hq

/-- A collision that is not the fourth in a row. -/
theorem exec_collision_counted (hc : s.link.collisions < 3) : exec .collision s
    = .next (match f.claimNumber with
      | some n => State.claimCollided { s with link := Collided s.link e } n
      | none => { s with link := Collided s.link e }) := by
  have hfew : ¬ 4 ≤ (Collided s.link e).collisions := by
    simp only [Collided]
    omega
  refine (exec_collision hr hon).trans (congrArg _ ?_)
  unfold State.collide
  rw [collidedOnce_eq hq]
  exact if_neg hfew

/-- The fourth collision in a row. -/
theorem exec_collision_fourth (hc : s.link.collisions = 3) : exec .collision s
    = .next (State.halt (match f.claimNumber with
      | some n => State.claimReturned { s with link := Collided s.link e } n
      | none => { s with link := Collided s.link e }) .linkFault (f.stamp.getD s.now)) := by
  have hfour : 4 ≤ (Collided s.link e).collisions := by
    simp only [Collided, hc]
    omega
  refine (exec_collision hr hon).trans (congrArg _ ?_)
  unfold State.collide
  rw [collidedOnce_eq hq]
  exact if_pos hfour

end

/-! ### The record of a CLAIM that collides (R45) -/

/-- The record QUEUED again, in the state that the collision leaves. -/
theorem claimCollided_eq {s : State} {n : Nat} {r : Record} (hclaiming : s.plans.claiming n = some r)
    {result : Option PlanOutcome}
    (h : FirstOf
      [(r.cancel ≠ none, some PlanOutcome.cancelled),
       (r.kind = .write ∧ Fenced s.restrictions.fence r.zone, some .fenced),
       (r.kind = .write ∧ (s.headRecord r.head).state = .suspect, some .headSuspect),
       (True, none)] result) :
    s.claimCollided n = match (generalizing := false) result with
      | none => s.updateRecord r.tag (fun x => { x with state := .queued })
      | some o => State.finish (s.updateRecord r.tag (fun x => { x with state := .queued }))
          { r with state := .queued } { outcome := o } := by
  let u : State := s.updateRecord r.tag (fun x => { x with state := .queued })
  let r' : Record := { r with state := .queued }
  have hfenced : u.nowFenced r' = true ↔ r.kind = .write ∧ Fenced s.restrictions.fence r.zone := nowFenced_iff u r'
  have hsuspect : u.nowSuspect r' = true ↔ r.kind = .write ∧ (s.headRecord r.head).state = .suspect :=
    nowSuspect_iff u r'
  simp only [firstOf_cons, firstOf_nil, ← hfenced, ← hsuspect] at h
  unfold State.claimCollided
  simp only [hclaiming]
  rcases h with ⟨hc, rfl⟩ | ⟨hc, h⟩
  · exact if_pos (Option.isSome_iff_ne_none.2 hc)
  refine (if_neg fun hsome => hc (Option.isSome_iff_ne_none.1 hsome)).trans ?_
  rcases h with ⟨hf, rfl⟩ | ⟨hf, h⟩
  · exact if_pos hf
  refine (if_neg hf).trans ?_
  rcases h with ⟨hs, rfl⟩ | ⟨hs, h⟩
  · exact if_pos hs
  refine (if_neg hs).trans ?_
  obtain ⟨-, rfl⟩ | ⟨-, h⟩ := h
  · rfl
  · exact h.elim

/-- A record that finishes from QUEUED leaves nothing of it in the queue of the link. -/
theorem finish_requeued (s : State) (r : Record) (o : PlanOutcome) :
    State.finish (s.updateRecord r.tag (fun x => { x with state := .queued })) { r with state := .queued }
      { outcome := o } = { s with
        link := Unsent s.link (.claim r.claim),
        plans := { s.plans with
          records := s.plans.records.map (fun x =>
            if x.tag = r.tag then endedRecord x o s.now none none none false else x),
          finished := s.plans.finished ++ [r.tag] } } := by
  let queued := s.plans.update r.tag (fun x => { x with state := .queued })
  have hlink : s.link.finishing { r with state := .queued } none = Unsent s.link (.claim r.claim) :=
    withdraw_eq _ _
  have hplans : queued.finish r.tag { outcome := o } s.now = s.plans.finish r.tag { outcome := o } s.now := by
    unfold PlanQueue.finish
    rw [update_update s.plans r.tag _ (f := fun x => { x with state := .queued }) fun _ => rfl]
    rfl
  have hfinish : State.finish (s.updateRecord r.tag (fun x => { x with state := .queued }))
      { r with state := .queued } { outcome := o } = { s with
        link := s.link.finishing { r with state := .queued } none,
        plans := queued.finish r.tag { outcome := o } s.now } := rfl
  rw [hfinish, hlink, hplans]
  rfl

theorem claimReturned_eq {s : State} {n : Nat} {r : Record} (hclaiming : s.plans.claiming n = some r) :
    s.claimReturned n = { s with plans := s.plans.update r.tag (fun x => { x with state := .queued }) } := by
  unfold State.claimReturned
  simp only [hclaiming]
  rfl

end Sys2Proof.Machine
end

section
/-! PROOFS. The sampling of the line, and the readback of the station's own frame. -/

namespace Sys2Proof.Machine

/-! ### One bit time (R128) -/

theorem sample_start {l : Link} (hb : l.byteBits = none) (hh : l.lineHigh = true) : l.sample false
    = ({ l with lineHigh := false, byteBits := some (l.idleCount, []), idleCount := 0 }, none) := by
  unfold Link.sample
  simp only [hb]
  exact if_pos hh

theorem sample_high {l : Link} (hb : l.byteBits = none) :
    l.sample true = ({ l with lineHigh := true, idleCount := l.idleCount + 1 }, none) := by
  unfold Link.sample
  simp only [hb]
  rfl

theorem sample_data {l : Link} {gap : Nat} {bits : List Bool} (hb : l.byteBits = some (gap, bits))
    (hlen : bits.length < 8) (level : Bool) :
    l.sample level = ({ l with lineHigh := level, byteBits := some (gap, bits ++ [level]) }, none) := by
  unfold Link.sample
  simp only [hb]
  exact if_pos hlen

theorem sample_stop {l : Link} {gap : Nat} {bits : List Bool} (hb : l.byteBits = some (gap, bits))
    (hlen : bits.length = 8) {x : Byte} (hx : BitVec.ofNat 8 (bitsNat bits) = x) (stop : Bool) : l.sample stop
    = ({ l with
          lineHigh := stop, byteBits := none,
          idleCount := if l.endsFrame x then 0 else highsAtEnd (bits ++ [stop]) },
        some { value := x, fault := !stop, gap := gap }) := by
  subst hx
  unfold Link.sample
  simp only [hb]
  exact if_neg (by omega)

/-! ### Runs of bit times -/

theorem sampleAll_append (l : Link) (p q : List Bool) : l.sampleAll (p ++ q)
    = (((l.sampleAll p).1.sampleAll q).1, (l.sampleAll p).2 ++ ((l.sampleAll p).1.sampleAll q).2) := by
  induction p generalizing l with
  | nil => rfl
  | cons level p ih =>
    simp only [List.cons_append, Link.sampleAll, ih, List.append_assoc]

/-- Data bits of a byte in progress complete no byte while at most eight have come. -/
theorem sampleAll_data (more : List Bool) : ∀ (l : Link) (gap : Nat) (bits : List Bool),
    l.byteBits = some (gap, bits) → bits.length + more.length ≤ 8 →
    l.sampleAll more = ({ l with lineHigh := more.getLastD l.lineHigh, byteBits := some (gap, bits ++ more) }, []) := by
  induction more with
  | nil =>
    intro l gap bits hb _
    rw [List.append_nil, ← hb]
    rfl
  | cons level more ih =>
    intro l gap bits hb hlen
    rw [List.length_cons] at hlen
    let u : Link := { l with lineHigh := level, byteBits := some (gap, bits ++ [level]) }
    have hone : l.sample level = (u, none) := sample_data hb (by omega) level
    have hmore := ih u gap (bits ++ [level]) rfl (by rw [List.length_append, List.length_singleton]; omega)
    have hsteps : l.sampleAll (level :: more)
        = ((l.sample level).1.sampleAll more |>.1, (l.sample level).2.toList ++ ((l.sample level).1.sampleAll more).2) := rfl
    rw [hsteps, hone, hmore, List.append_assoc, List.getLastD_cons]
    rfl

/-- A start bit and data bits, at most eight of them, complete no byte. -/
theorem sampleAll_begun {l : Link} (hb : l.byteBits = none) (hh : l.lineHigh = true) {more : List Bool}
    (hlen : more.length ≤ 8) : l.sampleAll (false :: more) = ({ l with
      lineHigh := more.getLastD false, byteBits := some (l.idleCount, more), idleCount := 0 }, []) := by
  let u : Link := { l with lineHigh := false, byteBits := some (l.idleCount, []), idleCount := 0 }
  have hone : l.sample false = (u, none) := sample_start hb hh
  have hmore := sampleAll_data more u l.idleCount [] rfl (by rw [List.length_nil]; omega)
  have hsteps : l.sampleAll (false :: more)
      = ((l.sample false).1.sampleAll more |>.1, (l.sample false).2.toList ++ ((l.sample false).1.sampleAll more).2) := rfl
  rw [hsteps, hone, hmore]
  rfl

/-- The data bits of a byte, least significant first (R128). -/
def dataBits (x : Byte) : List Bool := (List.range 8).map (fun i => x.getLsbD i)

theorem dataBits_length (x : Byte) : (dataBits x).length = 8 := by simp [dataBits]

theorem lineBits_split (x : Byte) : lineBits x = false :: dataBits x ++ [true] := rfl

theorem lineBits_length (x : Byte) : (lineBits x).length = 10 := by simp [lineBits]

theorem byte_of_dataBits (x : Byte) : BitVec.ofNat 8 (bitsNat (dataBits x)) = x := by
  refine BitVec.eq_of_getLsbD_eq fun i hi => ?_
  rw [bitsNat_bit _ hi, dataBits, List.getD_eq_getElem?_getD, List.getElem?_map, List.getElem?_range hi]
  rfl

/-- The ten bit times of a byte from an idle line (R128, log 38). -/
theorem sampleAll_byte {l : Link} (hb : l.byteBits = none) (hh : l.lineHigh = true) (x : Byte) (stop : Bool) :
    l.sampleAll (false :: dataBits x ++ [stop]) = ({ l with
      lineHigh := stop, idleCount := if l.endsFrame x then 0 else highsAtEnd (dataBits x ++ [stop]) },
      [{ value := x, fault := !stop, gap := l.idleCount }]) := by
  let u : Link := { l with
    lineHigh := (dataBits x).getLastD false, byteBits := some (l.idleCount, dataBits x), idleCount := 0 }
  have hdata : l.sampleAll (false :: dataBits x) = (u, []) := sampleAll_begun hb hh (dataBits_length x).le
  have hlast : u.sampleAll [stop] = ((u.sample stop).1, (u.sample stop).2.toList ++ []) := rfl
  have hstop : u.sample stop = _ := sample_stop (l := u) rfl (dataBits_length x) (byte_of_dataBits x) stop
  rw [sampleAll_append, hdata, hlast, hstop, ← hb]
  rfl

/-! ### The readback of an own frame (R134, R137) -/

/-- Within a byte that reads otherwise at its last bit time, a byte completes with a fault exactly at the stop
bit. -/
theorem sampleAll_collided_byte {l : Link} (hb : l.byteBits = none) (hh : l.lineHigh = true) (x : Byte) {bit : Nat}
    (hbit : bit < 10) {level : Bool} (hl : level ≠ (lineBits x).getD bit true) :
    (l.sampleAll ((lineBits x).take bit ++ [level])).2.any RxByte.fault = decide (bit = 9) := by
  have hlevel : level = !(lineBits x).getD bit true := Bool.eq_not.2 hl
  obtain rfl | ⟨j, rfl⟩ : bit = 0 ∨ ∃ j, bit = j + 1 := by
    rcases bit with - | j
    · exact .inl rfl
    · exact .inr ⟨j, rfl⟩
  · have htrue : level = true := hlevel
    have hnone : l.sampleAll [level] = ((l.sample level).1, (l.sample level).2.toList ++ []) := rfl
    rw [List.take_zero, List.nil_append, hnone, htrue, sample_high hb]
    rfl
  · by_cases hj : j < 8
    · have htake : (lineBits x).take (j + 1) ++ [level] = false :: ((dataBits x).take j ++ [level]) := by
        rw [lineBits_split, List.cons_append, List.take_succ_cons,
          List.take_append_of_le_length (by rw [dataBits_length]; omega)]
        rfl
      rw [htake, sampleAll_begun hb hh (by
        rw [List.length_append, List.length_take, dataBits_length, List.length_singleton]; omega)]
      exact (decide_eq_false (by omega)).symm
    · obtain rfl : j = 8 := by omega
      have hfalse : level = false := hlevel
      have htake : (lineBits x).take 9 = false :: dataBits x := rfl
      rw [htake, sampleAll_byte hb hh, hfalse]
      rfl

/-- The bits read back of a frame up to the bit time that reads otherwise: a framing fault exactly at a stop bit. -/
theorem sampleAll_collided (bytes : List Byte) : ∀ (l : Link) (bit : Nat) (level : Bool), l.byteBits = none →
    l.lineHigh = true → bit < (bytes.flatMap lineBits).length → level ≠ (bytes.flatMap lineBits).getD bit true →
    (l.sampleAll ((bytes.flatMap lineBits).take bit ++ [level])).2.any RxByte.fault = decide (bit % 10 = 9) := by
  induction bytes with
  | nil =>
    intro l bit level _ _ hbit
    exact absurd hbit (by simp)
  | cons x xs ih =>
    intro l bit level hb hh hbit hl
    rw [List.flatMap_cons] at hbit hl ⊢
    by_cases hfirst : bit < 10
    · rw [List.getD_append _ _ _ _ (by rw [lineBits_length]; exact hfirst)] at hl
      rw [List.take_append_of_le_length (by rw [lineBits_length]; omega),
        sampleAll_collided_byte hb hh x hfirst hl, Nat.mod_eq_of_lt hfirst]
    · obtain ⟨b, rfl⟩ : ∃ b, bit = (lineBits x).length + b := ⟨bit - 10, by rw [lineBits_length]; omega⟩
      rw [getD_append_at] at hl
      rw [List.length_append] at hbit
      have hrest := ih { l with
          lineHigh := true, idleCount := if l.endsFrame x then 0 else highsAtEnd (dataBits x ++ [true]) } b level hb rfl
        (by omega) hl
      have hmod : ((lineBits x).length + b) % 10 = b % 10 := by rw [lineBits_length, Nat.add_mod_left]
      rw [hmod, List.take_length_add_append, List.append_assoc, sampleAll_append, lineBits_split, sampleAll_byte hb hh,
        List.any_append, hrest]
      exact Bool.false_or _

theorem lineBit_own {s : State} (hr : s.pins.rstn = true)
    (hst : s.station = .listen ∨ s.station = .joining ∨ s.station = .active) {o : OnLine}
    (hon : s.link.onLine = some o) (level pulse : Bool) : s.lineBit level pulse = s.readBack level := by
  have hreads : (s.pins.rstn && s.readsLine) = true := by rw [hr, Bool.true_and, readsLine_iff]; exact hst
  refine (if_pos hreads).trans ?_
  rw [hon]

theorem driven_of_rstn {s : State} (hr : s.pins.rstn = true) : s.driven = s.frameBits.getD s.link.bit true := by
  rw [State.driven, hr]
  rfl

theorem readBack_other {s : State} (hr : s.pins.rstn = true) {o : OnLine} (hon : s.link.onLine = some o) {level : Bool}
    (hl : level ≠ s.driven) (hbit : s.link.bit < s.frameBits.length) : (s.readBack level).pending
      = s.pending ++ (if s.link.bit % 10 = 9 then [.collision, .linkFrameError false] else [.collision]) := by
  let start : Link := { s.link with byteBits := none, lineHigh := true, idleCount := 0 }
  have hpending : (s.readBack level).pending = s.pending ++ (.collision ::
      if (start.sampleAll (s.frameBits.take s.link.bit ++ [level])).2.any RxByte.fault
        then [.linkFrameError false]
        else []) := by
    unfold State.readBack
    rw [if_neg hl]
    rfl
  rw [driven_of_rstn hr] at hl
  rw [hpending]
  rw [State.frameBits_of_onLine hon] at hl hbit ⊢
  rw [sampleAll_collided _ start _ _ rfl rfl hbit hl]
  by_cases h9 : s.link.bit % 10 = 9 <;> simp [h9]

/-- Settles O47. -/
theorem collisionCountsAndHalts : Obligations.CollisionCountsAndHalts := by
  intro s hr
  refine ⟨fun f hon => exec_collision hr hon, exec_collision_nothing, fun f e rest hon hq hc => ⟨fun hf => ?_, ?_⟩,
    fun f e rest hon hq hc => ⟨fun stamp hf hstamp => ?_, ?_⟩, fun o level pulse hon hst => ⟨?_, ?_, ?_⟩⟩
  · rw [exec_collision_counted hr hon hq hc, claimNumber_none hf]
  · rintro stamp n k ws we level r rfl - hqueue hrm hrc hrn result hresult
    have hclaiming : s.plans.claiming n = some r := hrn ▸ claiming_of_mem hqueue hrm hrc
    let u : State := { s with link := Collided s.link e }
    have hclaim := exec_collision_counted hr hon hq hc
    have hcollided := claimCollided_eq (s := u) hclaiming hresult
    refine ⟨?_, ?_⟩
    · rintro rfl
      exact hclaim.trans (congrArg _ hcollided)
    · rintro o rfl
      refine hclaim.trans (congrArg _ (hcollided.trans ((finish_requeued u r o).trans ?_)))
      rw [hrn]
      rfl
  · have hstamped : f.stamp.getD s.now = stamp := by cases f <;> exact hstamp.symm
    rw [exec_collision_fourth hr hon hq hc, claimNumber_none hf, hstamped]
    exact ⟨_, rfl, halt_eq { s with link := Collided s.link e } .linkFault stamp⟩
  · rintro stamp n k ws we level r rfl hqueue hrm hrc hrn
    have hclaiming : s.plans.claiming n = some r := hrn ▸ claiming_of_mem hqueue hrm hrc
    let u : State := { s with link := Collided s.link e }
    have hhalt := exec_collision_fourth hr hon hq hc
    have hreturned := claimReturned_eq (s := u) hclaiming
    let v : State := { u with plans := u.plans.update r.tag (fun x => { x with state := .queued }) }
    have hhalted : exec .collision s = .next (v.halt .linkFault stamp) :=
      hhalt.trans (congrArg (fun v : State => Host.Outcome.next (v.halt .linkFault stamp)) hreturned)
    exact ⟨_, hhalted, halt_eq v .linkFault stamp⟩
  · intro hl hbit
    rw [lineBit_own hr hst hon, readBack_other hr hon hl hbit]
  · intro hl hbit
    rw [lineBit_own hr hst hon, State.readBack, if_pos hl]
    exact if_neg (by omega)
  · intro hl hbit
    rw [lineBit_own hr hst hon, State.readBack, if_pos hl]
    exact if_pos (by omega)

end Sys2Proof.Machine
end

section
/-! PROOFS. Frame errors, and the line bit by bit. -/

namespace Sys2Proof.Machine

/-! ### A frame error at the receiver (R137) -/

theorem receives_reading {s : State} (hr : s.pins.rstn = true)
    (hst : s.station = .listen ∨ s.station = .joining ∨ s.station = .active) (hon : s.link.onLine = none)
    (hrx : s.link.receiver = .idle ∨ s.link.receiver = .receiving) : s.receives = true := by
  have hreads : s.readsLine = true := (readsLine_iff s).2 hst
  rcases hrx with h | h <;> simp [State.receives, hr, hreads, hon, h]

theorem receives_discarding {s : State} (hrx : s.link.receiver = .waitingIdle ∨ s.link.receiver = .discarding) :
    s.receives = false := by
  rcases hrx with h | h <;> simp [State.receives, h]

theorem exec_linkFrameError_taken {s : State} (hreceives : s.receives = true) (foreignLow : Bool) :
    exec (.linkFrameError foreignLow) s = .next (s.frameError foreignLow) :=
  congrArg _ (if_pos hreceives)

theorem exec_linkFrameError_discarding {s : State} (hreceives : s.receives = false) (foreignLow : Bool) :
    exec (.linkFrameError foreignLow) s = .next (if foreignLow then s.foreignLevel else s) :=
  congrArg _ (if_neg (Bool.eq_false_iff.1 hreceives))

theorem foreignLevel_idle {s : State} (hr : s.pins.rstn = true)
    (hst : s.station = .listen ∨ s.station = .joining ∨ s.station = .active) (hon : s.link.onLine = none) :
    s.foreignLevel = { s with link := { s.link with postSend := false, idleCount := 0 } } := by
  have hreads : s.readsLine = true := (readsLine_iff s).2 hst
  exact if_pos (by simp [hr, hreads, hon])

/-- More than 20 idle bit times end the wait and the discarding (R128, R137). -/
theorem exec_idle_discarding {s : State} (hr : s.pins.rstn = true)
    (hst : s.station = .listen ∨ s.station = .joining ∨ s.station = .active)
    (hrx : s.link.receiver = .waitingIdle ∨ s.link.receiver = .discarding) : exec .idleForMoreThan20BitTimes s
      = .next { s with link := { s.link with receiver := .idle, idleCount := max s.link.idleCount 21 } } := by
  have hreads : s.readsLine = true := (readsLine_iff s).2 hst
  exact congrArg _ (if_pos (by rcases hrx with h | h <;> simp [hr, hreads, h]))

/-! ### The idle count after a byte (R128, log 38) -/

/-- The high levels after the last low one. -/
theorem highsAtEnd_after (pre : List Bool) {post : List Bool} (h : ∀ b ∈ post, b = true) :
    highsAtEnd (pre ++ false :: post) = post.length := by
  have hreverse : (pre ++ false :: post).reverse = post.reverse ++ false :: pre.reverse := by simp
  rw [highsAtEnd, hreverse, List.takeWhile_append_of_pos (p := id) fun b hb => h b (List.mem_reverse.1 hb),
    List.takeWhile_cons_of_neg (by decide), List.append_nil, List.length_reverse]

theorem highsAtEnd_of_last {bits : List Bool} {j : Nat} (hj : j < bits.length) (hlow : bits.getD j true = false)
    (hhigh : ∀ i, j < i → i < bits.length → bits.getD i true = true) : highsAtEnd bits = bits.length - 1 - j := by
  have hget : bits[j] = false := by rw [← hlow, List.getD_eq_getElem _ _ hj]
  have hsplit : bits = bits.take j ++ false :: bits.drop (j + 1) := by
    rw [← hget, List.getElem_cons_drop, List.take_append_drop]
  have hpost : ∀ b ∈ bits.drop (j + 1), b = true := by
    intro b hb
    obtain ⟨i, hi, rfl⟩ := List.getElem_of_mem hb
    rw [List.length_drop] at hi
    rw [List.getElem_drop, ← hhigh (j + 1 + i) (by omega) (by omega), List.getD_eq_getElem _ _ (by omega)]
  have hcount := highsAtEnd_after (bits.take j) hpost
  rw [← hsplit, List.length_drop] at hcount
  omega

/-- The start bit is low: it does not lengthen the high levels behind it. -/
theorem highsAtEnd_start (bits : List Bool) : highsAtEnd (false :: bits) = highsAtEnd bits := by
  rw [highsAtEnd, highsAtEnd, List.reverse_cons, List.takeWhile_append]
  split
  · next h =>
    rw [List.length_append, h]
    rfl
  · rfl

/-! ### One bit time that completes a byte (R136) -/

theorem receiveBit_completes {s : State} {level : Bool} {l : Link} {b : RxByte}
    (hsample : Link.sample { s.link with postSend := s.link.postSend && level } level = (l, some b))
    (hrx : s.link.receiver = .receiving) (pulse : Bool) :
    s.receiveBit level pulse = State.receiveByte { s with link := l } b pulse := by
  unfold State.receiveBit
  dsimp only at hsample ⊢
  rw [hsample]
  simp only [hrx]

/-- The station as the stop bit of a byte leaves it, before the byte joins the frame. -/
theorem lineBit_completes {s : State} (hr : s.pins.rstn = true)
    (hst : s.station = .listen ∨ s.station = .joining ∨ s.station = .active) (hon : s.link.onLine = none)
    (hrx : s.link.receiver = .receiving) {gap : Nat} {x : Byte} (hb : s.link.byteBits = some (gap, dataBits x))
    (level pulse : Bool) : ∃ idle, s.lineBit level pulse = State.receiveByte { s with
      link := { s.link with
        postSend := s.link.postSend && level, lineHigh := level, byteBits := none, idleCount := idle } }
      { value := x, fault := !level, gap := gap } pulse := by
  have hreads : (s.pins.rstn && s.readsLine) = true := by rw [hr, Bool.true_and, readsLine_iff]; exact hst
  let l : Link := { s.link with postSend := s.link.postSend && level }
  have hstop := sample_stop (l := l) hb (dataBits_length x) (byte_of_dataBits x) level
  have hbit : s.lineBit level pulse = s.receiveBit level pulse := by
    refine (if_pos hreads).trans ?_
    rw [hon]
  exact ⟨if l.endsFrame x then 0 else highsAtEnd (dataBits x ++ [level]),
    hbit.trans (receiveBit_completes hstop hrx pulse)⟩

theorem receiveByte_undecided {s : State} {b : RxByte} {pulse : Bool} {bs : List RxByte}
    (hbs : bs = s.link.assembly ++ [b]) (h : lineCommand bs 0 pulse = none) :
    s.receiveByte b pulse = { s with link := { s.link with assembly := bs } } := by
  subst hbs
  unfold State.receiveByte
  simp only [h]

theorem receiveByte_command {s : State} {b : RxByte} {pulse : Bool} {bs : List RxByte}
    (hbs : bs = s.link.assembly ++ [b]) {c : Instr} (h : lineCommand bs 0 pulse = some c)
    (hc : ∀ b, c ≠ .linkFrameError b) : s.receiveByte b pulse = { s with
      link := { s.link with assembly := [], receiver := .idle }, pending := s.pending ++ [c] } := by
  subst hbs
  unfold State.receiveByte
  cases c with
  | linkFrameError b => exact absurd rfl (hc b)
  | _ => simp only [h, State.queueCommands]

theorem receiveByte_error {s : State} {b : RxByte} {pulse : Bool} {bs : List RxByte}
    (hbs : bs = s.link.assembly ++ [b]) (h : lineCommand bs 0 pulse = some (.linkFrameError true)) :
    s.receiveByte b pulse = { s with
      link := { s.link with assembly := [] }, pending := s.pending ++ [.linkFrameError (!s.link.postSend)] } := by
  subst hbs
  unfold State.receiveByte
  simp only [h, State.queueCommands]

end Sys2Proof.Machine
end

section
/-! PROOFS. What the bytes of a received frame spell. -/

namespace Sys2Proof.Machine

/-! ### Reading fields (R176, R177) -/

theorem byteAt_behind (pre rest : List Byte) (i : Nat) : byteAt (pre ++ rest) (pre.length + i) = byteAt rest i :=
  congrArg BitVec.toNat (getD_append_at pre rest i 0)

theorem wordAt_behind (pre rest : List Byte) : wordAt (pre ++ rest) pre.length = wordAt rest 0 := by
  have h0 := byteAt_behind pre rest 0
  rw [Nat.add_zero] at h0
  rw [wordAt, byteAt_behind, h0, wordAt]

theorem tripleAt_behind (pre rest : List Byte) : tripleAt (pre ++ rest) pre.length = tripleAt rest 0 := by
  rw [tripleAt, wordAt_behind, byteAt_behind, tripleAt]

theorem wordAt_byte2 (pre : List Byte) (n : Nat) (post : List Byte) :
    wordAt (pre ++ (byte2 n ++ post)) pre.length = n % 65536 := by
  rw [wordAt_behind]
  simp [wordAt, byteAt, byte2]
  omega

theorem tripleAt_behind_byte3 (pre : List Byte) (n : Nat) (post : List Byte) :
    tripleAt (pre ++ (byte3 n ++ post)) pre.length = n % 16777216 := by
  rw [tripleAt_behind]
  simp [tripleAt, wordAt, byteAt, byte3, byte2, byte1]
  omega

theorem timeAt_timeBytes (pre : List Byte) (t : Time) (post : List Byte) :
    timeAt (pre ++ (timeBytes t ++ post)) pre.length = t := by
  have hlt := t.isLt
  rw [timeAt, timeBytes, tripleAt_behind_byte3, Nat.mod_eq_of_lt (by omega), BitVec.ofNat_toNat, BitVec.setWidth_eq]

/-! ### The command of each kind (Table 11-3) -/

theorem frameCommand_join (n : Station) (stamp : Time) (unit : BitVec 32) (pulse : Bool) :
    frameCommand n 0x01 (timeBytes stamp ++ byte4 unit.toNat ++ [1#8]) pulse = some (.join n stamp unit pulse) := by
  have hstamp : timeAt (timeBytes stamp ++ byte4 unit.toNat ++ [1#8]) 0 = stamp :=
    timeAt_timeBytes [] stamp (byte4 unit.toNat ++ [1#8])
  have hlow : wordAt (timeBytes stamp ++ byte4 unit.toNat ++ [1#8]) 3 = unit.toNat % 65536 :=
    wordAt_byte2 (timeBytes stamp) unit.toNat _
  have hhigh : wordAt (timeBytes stamp ++ byte4 unit.toNat ++ [1#8]) 5 = unit.toNat / 65536 % 65536 := by
    refine Eq.trans ?_ (wordAt_byte2 (timeBytes stamp ++ byte2 unit.toNat) (unit.toNat / 65536) [1#8])
    simp [byte4, byte3, byte2, byte1, timeBytes, Nat.div_div_eq_div_mul]
  have hunit : unit.toNat % 65536 + 65536 * (unit.toNat / 65536 % 65536) = unit.toNat := by
    have hlt := unit.isLt
    omega
  have hcommand : frameCommand n 0x01 (timeBytes stamp ++ byte4 unit.toNat ++ [1#8]) pulse = some (.join n
      (timeAt (timeBytes stamp ++ byte4 unit.toNat ++ [1#8]) 0)
      (BitVec.ofNat 32 (wordAt (timeBytes stamp ++ byte4 unit.toNat ++ [1#8]) 3
        + 65536 * wordAt (timeBytes stamp ++ byte4 unit.toNat ++ [1#8]) 5)) pulse) := rfl
  rw [hcommand, hstamp, hlow, hhigh, hunit, BitVec.ofNat_toNat, BitVec.setWidth_eq]

theorem digest_of_word (d : BitVec 16) : BitVec.ofNat 16 (d.toNat % 65536) = d := by
  have hlt := d.isLt
  rw [Nat.mod_eq_of_lt (by omega), BitVec.ofNat_toNat, BitVec.setWidth_eq]

theorem frameCommand_beacon (n : Station) (stamp : Time) (d : BitVec 16) (claims sync : Byte) (pulse : Bool) :
    frameCommand n 0x02 (timeBytes stamp ++ byte2 d.toNat ++ [claims, sync]) pulse
      = some (.beacon n stamp d claims sync pulse) := by
  let p := timeBytes stamp ++ byte2 d.toNat ++ [claims, sync]
  have hstamp : timeAt p 0 = stamp := timeAt_timeBytes [] stamp (byte2 d.toNat ++ [claims, sync])
  have hdigest : wordAt p 3 = d.toNat % 65536 := wordAt_byte2 (timeBytes stamp) d.toNat [claims, sync]
  have hcommand : frameCommand n 0x02 p pulse
      = some (.beacon n (timeAt p 0) (BitVec.ofNat 16 (wordAt p 3)) claims sync pulse) := rfl
  rw [hcommand, hstamp, hdigest, digest_of_word]

theorem frameCommand_claim (n : Station) (stamp : Time) (number kind level : Byte) (ws we : Time) (pulse : Bool) :
    frameCommand n 0x03 (timeBytes stamp ++ [number, kind] ++ timeBytes ws ++ timeBytes we ++ [level]) pulse
      = some (.claim n stamp number kind ws we level pulse) := by
  let p := timeBytes stamp ++ [number, kind] ++ timeBytes ws ++ timeBytes we ++ [level]
  have hstamp : timeAt p 0 = stamp :=
    timeAt_timeBytes [] stamp ([number, kind] ++ timeBytes ws ++ timeBytes we ++ [level])
  have hws : timeAt p 5 = ws := timeAt_timeBytes (timeBytes stamp ++ [number, kind]) ws (timeBytes we ++ [level])
  have hwe : timeAt p 8 = we := timeAt_timeBytes (timeBytes stamp ++ [number, kind] ++ timeBytes ws) we [level]
  have hcommand : frameCommand n 0x03 p pulse
      = some (.claim n (timeAt p 0) number kind (timeAt p 5) (timeAt p 8) level pulse) := rfl
  rw [hcommand, hstamp, hws, hwe]

theorem frameCommand_release (n : Station) (stamp : Time) (number : Byte) (x : Time) (pulse : Bool) :
    frameCommand n 0x04 (timeBytes stamp ++ [number] ++ timeBytes x) pulse
      = some (.release n stamp number x pulse) := by
  let p := timeBytes stamp ++ [number] ++ timeBytes x
  have hstamp : timeAt p 0 = stamp := timeAt_timeBytes [] stamp ([number] ++ timeBytes x)
  have hx : timeAt p 4 = x := timeAt_timeBytes (timeBytes stamp ++ [number]) x []
  have hcommand : frameCommand n 0x04 p pulse = some (.release n (timeAt p 0) number (timeAt p 4) pulse) := rfl
  rw [hcommand, hstamp, hx]

theorem frameCommand_syncDone (n : Station) (stamp : Time) (d : BitVec 16) (pulse : Bool) :
    frameCommand n 0x07 (timeBytes stamp ++ byte2 d.toNat) pulse = some (.syncDone n stamp d pulse) := by
  let p := timeBytes stamp ++ byte2 d.toNat
  have hstamp : timeAt p 0 = stamp := timeAt_timeBytes [] stamp (byte2 d.toNat)
  have hdigest : wordAt p 3 = d.toNat % 65536 := wordAt_byte2 (timeBytes stamp) d.toNat []
  have hcommand : frameCommand n 0x07 p pulse
      = some (.syncDone n (timeAt p 0) (BitVec.ofNat 16 (wordAt p 3)) pulse) := rfl
  rw [hcommand, hstamp, hdigest, digest_of_word]

/-! ### The entries of an ANNOUNCE -/

/-- The nine bytes of a claim entry as an ANNOUNCE carries it. -/
def entryBytes (a : AnnounceEntry) : List Byte :=
  [a.number, a.kind] ++ timeBytes a.windowStart ++ timeBytes a.windowEnd ++ [a.level]

theorem entryBytes_length (a : AnnounceEntry) : (entryBytes a).length = 9 := rfl

/-- The entry that an ANNOUNCE payload holds at an offset. -/
def entryAt (p : List Byte) (a : Nat) : AnnounceEntry :=
  { number := p.getD a 0, kind := p.getD (a + 1) 0, windowStart := timeAt p (a + 2), windowEnd := timeAt p (a + 5),
    level := p.getD (a + 8) 0 }

theorem entryAt_entryBytes (pre : List Byte) (a : AnnounceEntry) (post : List Byte) :
    entryAt (pre ++ (entryBytes a ++ post)) pre.length = a := by
  have hget : ∀ i, (pre ++ (entryBytes a ++ post)).getD (pre.length + i) 0 = (entryBytes a ++ post).getD i 0 :=
    fun i => getD_append_at pre _ i 0
  have hws : timeAt (pre ++ (entryBytes a ++ post)) (pre.length + 2) = a.windowStart := by
    have hat := timeAt_timeBytes (pre ++ [a.number, a.kind]) a.windowStart (timeBytes a.windowEnd ++ [a.level] ++ post)
    rw [List.length_append, List.append_assoc] at hat
    exact hat
  have hwe : timeAt (pre ++ (entryBytes a ++ post)) (pre.length + 5) = a.windowEnd := by
    have hat := timeAt_timeBytes (pre ++ ([a.number, a.kind] ++ timeBytes a.windowStart)) a.windowEnd ([a.level] ++ post)
    rw [List.length_append, List.append_assoc] at hat
    exact hat
  have h0 := hget 0
  rw [Nat.add_zero] at h0
  rw [entryAt, hws, hwe, hget, hget, h0]
  rfl

theorem announceEntries_flatMap (final : Byte) (es : List AnnounceEntry) :
    announceEntries ([final] ++ es.flatMap entryBytes) = es := by
  have hcount : (([final] ++ es.flatMap entryBytes).length - 1) / 9 = es.length := by
    rw [List.length_append, flatMap_chunk_length entryBytes_length, List.length_singleton, Nat.add_sub_cancel_left,
      Nat.mul_div_cancel_left _ (by decide)]
  have hentries : announceEntries ([final] ++ es.flatMap entryBytes)
      = (List.range es.length).map (fun i => entryAt ([final] ++ es.flatMap entryBytes) (1 + 9 * i)) := by
    rw [announceEntries, hcount]
    refine List.map_congr_left fun i _ => ?_
    simp only [entryAt]
    grind
  rw [hentries]
  refine List.ext_getElem (by simp) fun i hi hi' => ?_
  have hsplit : es = es.take i ++ es[i] :: es.drop (i + 1) := by rw [List.getElem_cons_drop, List.take_append_drop]
  have hat := entryAt_entryBytes ([final] ++ (es.take i).flatMap entryBytes) es[i] ((es.drop (i + 1)).flatMap entryBytes)
  have hlist : [final] ++ es.flatMap entryBytes = [final] ++ (es.take i).flatMap entryBytes
      ++ (entryBytes es[i] ++ (es.drop (i + 1)).flatMap entryBytes) := by
    rw [List.append_assoc, ← List.flatMap_cons, ← List.flatMap_append, ← hsplit]
  have hoffset : ([final] ++ (es.take i).flatMap entryBytes).length = 1 + 9 * i := by
    rw [List.length_append, flatMap_chunk_length entryBytes_length, List.length_take_of_le hi'.le]
    rfl
  rw [← hlist, hoffset] at hat
  rw [List.getElem_map, List.getElem_range, hat]

theorem frameCommand_announce (n : Station) (final : Byte) (es : List AnnounceEntry) (pulse : Bool) :
    frameCommand n 0x06 ([final] ++ es.flatMap entryBytes) pulse = some (.announce n final es) := by
  have hcommand : frameCommand n 0x06 ([final] ++ es.flatMap entryBytes) pulse
      = some (.announce n final (announceEntries ([final] ++ es.flatMap entryBytes))) := rfl
  rw [hcommand, announceEntries_flatMap]

end Sys2Proof.Machine
end

section
/-! PROOFS. The checks of a received frame, and what its bytes spell. -/

namespace Sys2Proof.Machine

/-! ### The checks at one byte (R136, R137) -/

/-- Byte `i` of a frame being received passes the checks of R136. -/
def ByteSound (bs : List RxByte) (i : Nat) : Prop :=
  let vs := bs.map RxByte.value
  let len := byteAt vs 3
  (bs.getD i ⟨0, false, 0⟩).fault = false
  ∧ (0 < i → (bs.getD i ⟨0, false, 0⟩).gap ≤ 20)
  ∧ (i = 0 → vs.getD i 0 = 0x6A)
  ∧ (i = 1 → (vs.getD i 0).toNat ≤ 7)
  ∧ (i = 2 → (vs.getD i 0).toNat ≠ 0 ∧ (vs.getD i 0).toNat ≤ 7)
  ∧ (i = 3 → lengthAllowed (vs.getD 2 0) len = true)
  ∧ (i = 11 → vs.getD 2 0 = 0x01 → vs.getD i 0 = 0x01)
  ∧ (3 < i → i = 4 + len → sumsToZero ((vs.take (5 + len)).drop 1) = true)
  ∧ (3 < i → i = 5 + len → vs.getD i 0 = 0x95)

theorem rxErrorAt_false_iff (bs : List RxByte) (i : Nat) : rxErrorAt bs i = false ↔ ByteSound bs i := by
  simp only [rxErrorAt, ByteSound, Bool.or_eq_false_iff, Bool.and_eq_false_iff, decide_eq_false_iff_not, not_not,
    Bool.not_eq_false', Nat.not_lt]
  grind

theorem rxErrorAt_iff (bs : List RxByte) (i : Nat) : rxErrorAt bs i = true ↔ ¬ ByteSound bs i := by
  rw [← rxErrorAt_false_iff, Bool.not_eq_false]

theorem any_rxErrorAt (bs : List RxByte) :
    (List.range bs.length).any (rxErrorAt bs) = false ↔ ∀ i < bs.length, ByteSound bs i := by
  rw [List.any_eq_false]
  simp only [List.mem_range, rxErrorAt_iff, not_not]

/-- A byte that fails a check is a frame error. -/
theorem lineCommand_error {bs : List RxByte} {i : Nat} (hi : i < bs.length) (h : ¬ ByteSound bs i) (idle : Nat)
    (pulse : Bool) : lineCommand bs idle pulse = some (.linkFrameError true) := by
  have hany : (List.range bs.length).any (rxErrorAt bs) = true :=
    List.any_eq_true.2 ⟨i, List.mem_range.2 hi, (rxErrorAt_iff bs i).2 h⟩
  exact if_pos hany

theorem lineCommand_whole {bs : List RxByte} (hsound : ∀ i < bs.length, ByteSound bs i)
    (hlen : 6 + byteAt (bs.map RxByte.value) 3 ≤ bs.length) (idle : Nat) (pulse : Bool) :
    lineCommand bs idle pulse = frameCommand (BitVec.ofNat 3 (byteAt (bs.map RxByte.value) 1))
      ((bs.map RxByte.value).getD 2 0)
      (((bs.map RxByte.value).take (4 + byteAt (bs.map RxByte.value) 3)).drop 4) pulse :=
  (if_neg (Bool.eq_false_iff.1 ((any_rxErrorAt bs).2 hsound))).trans (if_pos hlen)

theorem lineCommand_part {bs : List RxByte} (hsound : ∀ i < bs.length, ByteSound bs i)
    (hlen : bs.length < 6 + byteAt (bs.map RxByte.value) 3) (hbs : bs ≠ []) (idle : Nat) (pulse : Bool) :
    lineCommand bs idle pulse = if 20 < idle then some (.linkFrameError true) else none := by
  have hpart := (if_neg (Bool.eq_false_iff.1 ((any_rxErrorAt bs).2 hsound))).trans (if_neg hlen.not_ge) (a := lineCommand bs idle pulse)
  refine hpart.trans ?_
  by_cases hidle : 20 < idle
  · rw [if_pos ⟨hbs, hidle⟩, if_pos hidle]
  · rw [if_neg fun h => hidle h.2, if_neg hidle]

/-! ### A whole frame -/

section
variable {bs : List RxByte} {n : Station} {kind : Byte} {p : List Byte}

/-- The values of the bytes of a received frame. -/
theorem FrameReceived.values (h : FrameReceived bs n kind p) : ∃ check : Byte,
    bs.map RxByte.value = [0x6A#8, BitVec.ofNat 8 n.toNat, kind, BitVec.ofNat 8 p.length] ++ (p ++ [check, 0x95#8])
    ∧ (n.toNat + kind.toNat + p.length + (p.map BitVec.toNat).sum + check.toNat) % 256 = 0 := by
  obtain ⟨-, -, -, check, hvs, hsum⟩ := h
  exact ⟨check, by rw [hvs, List.append_assoc], hsum⟩

theorem FrameReceived.len (h : FrameReceived bs n kind p) : byteAt (bs.map RxByte.value) 3 = p.length := by
  obtain ⟨check, hvs, -⟩ := h.values
  obtain ⟨hp, -⟩ := h
  rw [hvs]
  exact byte_toNat (by omega)

theorem FrameReceived.length (h : FrameReceived bs n kind p) : bs.length = 6 + p.length := by
  obtain ⟨check, hvs, -⟩ := h.values
  have hlen := congrArg List.length hvs
  simp only [List.length_map, List.length_append, List.length_cons, List.length_nil] at hlen
  omega

theorem FrameReceived.byteSound (h : FrameReceived bs n kind p) (hkind : kind.toNat ≠ 0 ∧ kind.toNat ≤ 7)
    (hallowed : lengthAllowed kind p.length = true) (hrev : kind = 0x01 → p.getD 7 0 = 0x01) {i : Nat}
    (hi : i < bs.length) : ByteSound bs i := by
  have hlen := h.len
  have hn := n.isLt
  obtain ⟨check, hvs, hsum⟩ := h.values
  obtain ⟨hp, hfault, hgap, -⟩ := h
  have hget : bs.getD i ⟨0, false, 0⟩ = bs[i] := List.getD_eq_getElem _ _ hi
  have hat : ∀ j, (bs.map RxByte.value).getD (4 + j) 0 = (p ++ [check, 0x95#8]).getD j 0 := fun j => by
    rw [hvs]
    exact getD_append_at [0x6A#8, BitVec.ofNat 8 n.toNat, kind, BitVec.ofNat 8 p.length] _ j 0
  unfold ByteSound
  simp only [hlen, hget]
  refine ⟨hfault _ (List.getElem_mem hi), fun h0 => ?_, ?_, ?_, ?_, ?_, ?_, ?_, ?_⟩
  · refine hgap _ (List.mem_iff_getElem.2 ⟨i - 1, by rw [List.length_drop]; omega, ?_⟩)
    rw [List.getElem_drop]
    congr 1
    omega
  · rintro rfl
    rw [hvs]
    rfl
  · rintro rfl
    rw [hvs]
    refine (byte_toNat (n := n.toNat) (by omega)).le.trans (by omega)
  · rintro rfl
    rw [hvs]
    exact hkind
  · rintro rfl
    rw [hvs]
    exact hallowed
  · rintro rfl hone
    have hkind1 : kind = 0x01 := by
      rw [hvs] at hone
      exact hone
    have hp8 : p.length = 8 := by
      subst hkind1
      simpa [lengthAllowed] using hallowed
    rw [hat 7, List.getD_append _ _ _ _ (by omega)]
    exact hrev hkind1
  · rintro - rfl
    have htake : ((bs.map RxByte.value).take (5 + p.length)).drop 1
        = [BitVec.ofNat 8 n.toNat, kind, BitVec.ofNat 8 p.length] ++ (p ++ [check]) := by
      have hlength : ([0x6A#8, BitVec.ofNat 8 n.toNat, kind, BitVec.ofNat 8 p.length] ++ (p ++ [check])).length
          = 5 + p.length := by
        simp only [List.length_append, List.length_cons, List.length_nil]
        omega
      have hsplit : bs.map RxByte.value
          = ([0x6A#8, BitVec.ofNat 8 n.toNat, kind, BitVec.ofNat 8 p.length] ++ (p ++ [check])) ++ [0x95#8] := by
        rw [hvs]
        simp
      rw [hsplit, List.take_left' hlength]
      rfl
    rw [htake, sumsToZero, decide_eq_true_eq]
    simp only [List.map_append, List.map_cons, List.map_nil, List.sum_append, List.sum_cons, List.sum_nil,
      byte_toNat (n := n.toNat) (by omega), byte_toNat (n := p.length) (by omega)]
    omega
  · rintro - rfl
    have hlast := hat (p.length + 1)
    rw [show 4 + (p.length + 1) = 5 + p.length by omega, getD_append_at] at hlast
    rw [hlast]
    rfl

/-- A frame that passes every check is the command of its kind (R136, Table 11-3). -/
theorem FrameReceived.command (h : FrameReceived bs n kind p) (hkind : kind.toNat ≠ 0 ∧ kind.toNat ≤ 7)
    (hallowed : lengthAllowed kind p.length = true) (hrev : kind = 0x01 → p.getD 7 0 = 0x01) (idle : Nat)
    (pulse : Bool) : lineCommand bs idle pulse = frameCommand n kind p pulse := by
  have hlen := h.len
  have hn := n.isLt
  obtain ⟨check, hvs, -⟩ := h.values
  have hnumber : BitVec.ofNat 3 (byteAt (bs.map RxByte.value) 1) = n := by
    rw [hvs]
    have hbyte : byteAt ([0x6A#8, BitVec.ofNat 8 n.toNat, kind, BitVec.ofNat 8 p.length] ++ (p ++ [check, 0x95#8])) 1
        = n.toNat := byte_toNat (by omega)
    rw [hbyte, BitVec.ofNat_toNat, BitVec.setWidth_eq]
  have hkindAt : (bs.map RxByte.value).getD 2 0 = kind := by
    rw [hvs]
    rfl
  have hpayload : ((bs.map RxByte.value).take (4 + p.length)).drop 4 = p := by
    have hlength : ([0x6A#8, BitVec.ofNat 8 n.toNat, kind, BitVec.ofNat 8 p.length] ++ p).length = 4 + p.length := by
      rw [List.length_append]
      rfl
    rw [hvs, ← List.append_assoc, List.take_left' hlength]
    rfl
  rw [lineCommand_whole (fun i hi => h.byteSound hkind hallowed hrev hi) (by rw [hlen, h.length]), hnumber, hkindAt, hlen,
    hpayload]

end

/-! ### A frame that stops short (R137) -/

theorem getD_take {α : Type} (l : List α) {i m : Nat} (hi : i < m) (d : α) : (l.take m).getD i d = l.getD i d := by
  rw [List.getD_eq_getElem?_getD, List.getD_eq_getElem?_getD, List.getElem?_take_of_lt hi]

/-- The checks at a byte do not look at what comes after it. -/
theorem ByteSound.take {bs : List RxByte} {i m : Nat} (hi : i < m) (h : ByteSound bs i) : ByteSound (bs.take m) i := by
  have hlen : 3 < m → byteAt ((bs.map RxByte.value).take m) 3 = byteAt (bs.map RxByte.value) 3 := fun hm =>
    congrArg BitVec.toNat (getD_take _ hm 0)
  obtain ⟨hfault, hgap, hlead, hsender, hkind, hlength, hrev, hsum, htrailer⟩ := h
  unfold ByteSound
  simp only [List.map_take, getD_take _ hi]
  refine ⟨hfault, hgap, hlead, hsender, hkind, fun h3 => ?_, fun h11 hone => hrev h11 ?_, fun h3 h4 => ?_, fun h3 h5 => ?_⟩
  · rw [hlen (by omega), getD_take _ (by omega)]
    exact hlength h3
  · rwa [getD_take _ (by omega)] at hone
  · rw [hlen (by omega)] at h4 ⊢
    rw [List.take_take, Nat.min_eq_left (by omega)]
    exact hsum h3 h4
  · rw [hlen (by omega)] at h5
    exact htrailer h3 h5

theorem byteSound_of_command {bs : List RxByte} {idle : Nat} {pulse : Bool} {c : Instr}
    (h : lineCommand bs idle pulse = some c) (hc : ∀ b, c ≠ .linkFrameError b) : ∀ i < bs.length, ByteSound bs i := by
  intro i hi
  by_contra hbad
  rw [lineCommand_error hi hbad] at h
  exact hc true (Option.some.inj h).symm

theorem lineCommand_take {full : List RxByte} {n : Station} {kind : Byte} {p : List Byte} {pulse : Bool} {c : Instr}
    (h : FrameReceived full n kind p) (hcommand : lineCommand full 0 pulse = some c) (hc : ∀ b, c ≠ .linkFrameError b)
    {m : Nat} (h0 : 0 < m) (hm : m < full.length) (idle : Nat) :
    lineCommand (full.take m) idle pulse = if 20 < idle then some (.linkFrameError true) else none := by
  have hsound := byteSound_of_command hcommand hc
  have hlength : (full.take m).length = m := List.length_take_of_le hm.le
  have hfull := h.length
  have hlen := h.len
  refine lineCommand_part (fun i hi => ?_) ?_ (fun hnil => ?_) idle pulse
  · rw [hlength] at hi
    exact (hsound i (by omega)).take hi
  · rw [hlength, List.map_take]
    by_cases h3 : 3 < m
    · have hsame : byteAt ((full.map RxByte.value).take m) 3 = byteAt (full.map RxByte.value) 3 :=
        congrArg BitVec.toNat (getD_take _ h3 0)
      rw [hsame, hlen]
      omega
    · omega
  · rw [hnil] at hlength
    exact absurd hlength h0.ne

end Sys2Proof.Machine
end

section
/-! PROOFS. Frame errors and what follows them. -/

namespace Sys2Proof.Machine

/-! ### A byte that fails a check (R136) -/

theorem lengthAllowed_iff (kind : Byte) (len : Nat) : lengthAllowed kind len = true ↔
    (kind.toNat = 1 ∧ len = 8) ∨ (kind.toNat = 2 ∧ len = 7) ∨ (kind.toNat = 3 ∧ len = 12)
      ∨ (kind.toNat = 4 ∧ len = 7) ∨ (kind.toNat = 5 ∧ len = 0)
      ∨ (kind.toNat = 6 ∧ (len = 1 ∨ len = 10 ∨ len = 19 ∨ len = 28)) ∨ (kind.toNat = 7 ∧ len = 5) := by
  unfold lengthAllowed
  split <;> simp_all
  tauto

section
variable {bs : List RxByte} {v : Nat → Nat} (hv : ∀ i, v i = ((bs.map RxByte.value).getD i 0).toNat)

include hv

theorem len_of_values : byteAt (bs.map RxByte.value) 3 = v 3 := (hv 3).symm

theorem value_ne {i : Nat} {x : Byte} (h : v i ≠ x.toNat) : (bs.map RxByte.value).getD i 0 ≠ x :=
  fun hx => h (by rw [hv, hx])

/-- The bytes that CHECK is taken over add up as their values do. -/
theorem sumsToZero_values (hlen : v 3 + 5 ≤ bs.length) :
    sumsToZero (((bs.map RxByte.value).take (5 + v 3)).drop 1) = true ↔
      ((List.range (v 3 + 4)).map (fun i => v (i + 1))).sum % 256 = 0 := by
  have hlist : (((bs.map RxByte.value).take (5 + v 3)).drop 1).map BitVec.toNat
      = (List.range (v 3 + 4)).map (fun i => v (i + 1)) := by
    refine List.ext_getElem ?_ fun i hi hi' => ?_
    · simp only [List.length_map, List.length_drop, List.length_take, List.length_range]
      omega
    · rw [List.length_map, List.length_range] at hi'
      have hvalue : v (1 + i) = bs[1 + i].value.toNat := by
        rw [hv, List.getD_eq_getElem _ _ (by rw [List.length_map]; omega), List.getElem_map]
      simp only [List.getElem_map, List.getElem_drop, List.getElem_take, List.getElem_range]
      rw [Nat.add_comm i 1, hvalue]
  rw [sumsToZero, hlist, decide_eq_true_eq]

/-- Each way for a frame to fail is a check that fails at one of its bytes. -/
theorem byte_fails (h : (∃ b ∈ bs, b.fault = true) ∨ (∃ b ∈ bs.drop 1, 20 < b.gap)
        ∨ (1 ≤ bs.length ∧ v 0 ≠ 0x6A) ∨ (2 ≤ bs.length ∧ 7 < v 1)
        ∨ (3 ≤ bs.length ∧ (v 2 < 1 ∨ 7 < v 2))
        ∨ (4 ≤ bs.length ∧ ¬ ((v 2 = 1 ∧ v 3 = 8) ∨ (v 2 = 2 ∧ v 3 = 7) ∨ (v 2 = 3 ∧ v 3 = 12)
            ∨ (v 2 = 4 ∧ v 3 = 7) ∨ (v 2 = 5 ∧ v 3 = 0)
            ∨ (v 2 = 6 ∧ (v 3 = 1 ∨ v 3 = 10 ∨ v 3 = 19 ∨ v 3 = 28)) ∨ (v 2 = 7 ∧ v 3 = 5)))
        ∨ (12 ≤ bs.length ∧ v 2 = 1 ∧ v 11 ≠ 1)
        ∨ (v 3 + 5 ≤ bs.length
            ∧ ((List.range (v 3 + 4)).map (fun i => v (i + 1))).sum % 256 ≠ 0)
        ∨ (v 3 + 6 ≤ bs.length ∧ v (v 3 + 5) ≠ 0x95)) : ∃ i < bs.length, ¬ ByteSound bs i := by
  have hlen := len_of_values hv
  rcases h with ⟨b, hb, hfault⟩ | ⟨b, hb, hgap⟩ | ⟨h1, hlead⟩ | ⟨h2, hsender⟩ | ⟨h3, hkind⟩ | ⟨h4, hlength⟩ |
    ⟨h12, hone, hrev⟩ | ⟨hsize, hsum⟩ | ⟨hsize, htrailer⟩
  · obtain ⟨i, hi, rfl⟩ := List.getElem_of_mem hb
    refine ⟨i, hi, fun hsound => ?_⟩
    obtain ⟨hclean, -⟩ := hsound
    rw [List.getD_eq_getElem _ _ hi, hfault] at hclean
    cases hclean
  · obtain ⟨i, hi, rfl⟩ := List.getElem_of_mem hb
    rw [List.length_drop] at hi
    refine ⟨1 + i, by omega, fun hsound => ?_⟩
    obtain ⟨-, hclose, -⟩ := hsound
    have hclose := hclose (by omega)
    rw [List.getD_eq_getElem _ _ (by omega)] at hclose
    rw [List.getElem_drop] at hgap
    omega
  · refine ⟨0, by omega, fun hsound => ?_⟩
    obtain ⟨-, -, hfirst, -⟩ := hsound
    exact value_ne hv (x := 0x6A) hlead (hfirst rfl)
  · refine ⟨1, by omega, fun hsound => ?_⟩
    obtain ⟨-, -, -, hnumber, -⟩ := hsound
    have hnumber := hnumber rfl
    rw [← hv] at hnumber
    omega
  · refine ⟨2, by omega, fun hsound => ?_⟩
    obtain ⟨-, -, -, -, hcode, -⟩ := hsound
    have hcode := hcode rfl
    rw [← hv] at hcode
    omega
  · refine ⟨3, by omega, fun hsound => hlength ?_⟩
    obtain ⟨-, -, -, -, -, hallowed, -⟩ := hsound
    have hallowed := (lengthAllowed_iff _ _).1 (hallowed rfl)
    rwa [← hv, hlen] at hallowed
  · refine ⟨11, by omega, fun hsound => ?_⟩
    obtain ⟨-, -, -, -, -, -, hrevision, -⟩ := hsound
    have hjoin : (bs.map RxByte.value).getD 2 0 = 0x01 := BitVec.eq_of_toNat_eq ((hv 2).symm.trans hone)
    exact value_ne hv (x := 0x01) hrev (hrevision rfl hjoin)
  · refine ⟨4 + v 3, by omega, fun hsound => hsum ?_⟩
    obtain ⟨-, -, -, -, -, -, -, hcheck, -⟩ := hsound
    rw [hlen] at hcheck
    exact (sumsToZero_values hv hsize).1 (hcheck (by omega) rfl)
  · refine ⟨5 + v 3, by omega, fun hsound => ?_⟩
    obtain ⟨-, -, -, -, -, -, -, -, hlast⟩ := hsound
    rw [hlen] at hlast
    rw [Nat.add_comm] at htrailer
    exact value_ne hv (x := 0x95) htrailer (hlast (by omega) rfl)

end

/-! ### The idle count of a byte, and the byte that joins a frame -/

theorem sampleAll_tenBits {l : Link} (hb : l.byteBits = none) (hh : l.lineHigh = true) (x : Byte) (stop : Bool)
    {bits : List Bool} (hbits : bits = false :: dataBits x ++ [stop]) {idle : Nat}
    (hidle : idle = (l.sampleAll bits).1.idleCount) :
    l.sampleAll bits = ({ l with lineHigh := stop, idleCount := idle },
        [{ value := x, fault := !stop, gap := l.idleCount }])
      ∧ (EndsFrame l x → idle = 0)
      ∧ (¬ EndsFrame l x → ∀ j < 10, bits.getD j true = false →
          (∀ i, j < i → i < 10 → bits.getD i true = true) → idle = 9 - j) := by
  subst hbits
  have hsampled := sampleAll_byte hb hh x stop
  have hcount : idle = if l.endsFrame x then 0 else highsAtEnd (dataBits x ++ [stop]) := by rw [hidle, hsampled]
  refine ⟨by rw [hcount, hsampled], fun hends => ?_, fun hends j hj hlow hhigh => ?_⟩
  · rw [hcount, if_pos ((endsFrame_iff l x).2 hends)]
  · have hlength : (false :: dataBits x ++ [stop]).length = 10 := rfl
    have hhighs := highsAtEnd_of_last (by rw [hlength]; exact hj) hlow (by rw [hlength]; exact hhigh)
    rw [hlength, List.cons_append, highsAtEnd_start] at hhighs
    rw [hcount, if_neg fun h => hends ((endsFrame_iff l x).1 h), hhighs]

theorem exec_linkFrameError_receiving {s : State} (hr : s.pins.rstn = true)
    (hst : s.station = .listen ∨ s.station = .joining ∨ s.station = .active) (foreignLow : Bool) {u : State}
    (hon : s.link.onLine = none) (hrx : s.link.receiver = .idle ∨ s.link.receiver = .receiving)
    (hu : u = { s with link := { s.link with
      receiver := .discarding, assembly := [],
      postSend := s.link.postSend && decide (s.link.receiver = .receiving) && !foreignLow } }) :
    exec (.linkFrameError foreignLow) s = .next (if s.peers.requester then GivenUp u else Desynced u true) := by
  have hpeers : u.peers = s.peers := by rw [hu]
  have herror : exec (.linkFrameError foreignLow) s = .next u.errorTaken := by
    rw [exec_linkFrameError_taken (receives_reading hr hst hon hrx), hu]
    rfl
  rw [herror, errorTaken_eq, hpeers]

/-- Settles O48. -/
theorem frameErrorDiscardsUntilIdle : Obligations.FrameErrorDiscardsUntilIdle := by
  refine ⟨fun s hr hst => ⟨fun foreignLow u hon hrx hu => ⟨fun hreq => ?_, fun hreq => ?_⟩, fun hrx => ?_⟩,
    fun bs n idle pulse stamp => ⟨?_, ?_, ?_, ?_, ?_, ?_, ?_⟩, fun bs idle pulse v hv hbad _ _ => ?_,
    fun full n kind p c m idle pulse h hcommand hc h0 hm => lineCommand_take h hcommand hc h0 hm idle,
    fun s bs idle pulse => ⟨fun h => ?_, fun c h => ?_⟩,
    fun l x stop bits idle hb hh hbits hidle => sampleAll_tenBits hb hh x stop hbits hidle, sampleAll_append,
    fun s level pulse gap x bs hr hst hon hrx hb hbs => ?_⟩
  · exact (exec_linkFrameError_receiving hr hst foreignLow hon hrx hu).trans
      (congrArg _ (if_neg (Bool.eq_false_iff.1 hreq)))
  · exact (exec_linkFrameError_receiving hr hst foreignLow hon hrx hu).trans (congrArg _ (if_pos hreq))
  · have hdiscarding := receives_discarding hrx
    refine ⟨exec_linkFrameError_discarding hdiscarding false, fun hon => ?_, exec_idle_discarding hr hst hrx⟩
    exact (exec_linkFrameError_discarding hdiscarding true).trans (congrArg _ (foreignLevel_idle hr hst hon))
  · intro unit h
    rw [h.command (by decide) rfl (fun _ => rfl), frameCommand_join]
  · intro d claims sync h
    rw [h.command (by decide) rfl (fun hkind => absurd hkind (by decide)), frameCommand_beacon]
  · intro number kind level ws we h
    rw [h.command (by decide) rfl (fun hkind => absurd hkind (by decide)), frameCommand_claim]
  · intro number x h
    rw [h.command (by decide) rfl (fun hkind => absurd hkind (by decide)), frameCommand_release]
  · intro h
    rw [h.command (by decide) rfl (fun hkind => absurd hkind (by decide))]
    rfl
  · intro final es hes h
    have hlength : ([final] ++ es.flatMap entryBytes).length = 1 + 9 * es.length := by
      rw [List.length_append, flatMap_chunk_length entryBytes_length, List.length_singleton]
    have hallowed : lengthAllowed 0x06 ([final] ++ es.flatMap entryBytes).length = true := by
      rw [hlength]
      obtain h | h | h | h : es.length = 0 ∨ es.length = 1 ∨ es.length = 2 ∨ es.length = 3 := by omega
      all_goals rw [h]; rfl
    exact (h.command (by decide) hallowed (fun hkind => absurd hkind (by decide)) idle pulse).trans
      (frameCommand_announce n final es pulse)
  · intro d h
    rw [h.command (by decide) rfl (fun hkind => absurd hkind (by decide)), frameCommand_syncDone]
  · obtain ⟨i, hi, hfails⟩ := byte_fails hv hbad
    exact lineCommand_error hi hfails idle pulse
  · rw [State.lineFrame, h, Option.toList_none, List.append_nil]
  · rw [State.lineFrame, h, Option.toList_some]
  · obtain ⟨idle, hbit⟩ := lineBit_completes hr hst hon hrx hb level pulse
    let u : State := { s with link := { s.link with
      postSend := s.link.postSend && level, lineHigh := level, byteBits := none, idleCount := idle } }
    rw [hbit]
    refine ⟨fun h => ?_, fun c h hc => ?_, fun h => ?_⟩
    · rw [receiveByte_undecided (s := u) hbs h]
      exact ⟨rfl, rfl⟩
    · rw [receiveByte_command (s := u) hbs h hc]
      exact ⟨rfl, rfl⟩
    · rw [receiveByte_error (s := u) hbs h]
      exact ⟨rfl, rfl⟩

end Sys2Proof.Machine
end

section
/-! PROOFS. Frames of other units: the own number, CLAIM and RELEASE. -/

namespace Sys2Proof.Machine

/-! ### The taking of a frame (R136) -/

/-- The station once a frame of another unit has ended. -/
def frameEndedState (s : State) : State := { s with link := FrameEnded s.link }

theorem takeFrame_own {s : State} (h : s.receives = true) (stamp : Option Time) (act : State → State) :
    s.takeFrame s.number stamp act = State.ownNumberFrame (frameEndedState s) (stamp.getD s.now) :=
  (if_pos h).trans (if_pos rfl)

theorem takeFrame_peer {s : State} (h : s.receives = true) {n : Station} (hn : n ≠ s.number) (stamp : Option Time)
    (act : State → State) : s.takeFrame n stamp act = act (frameEndedState s) :=
  (if_pos h).trans (if_neg hn)

/-- The frames that bear the station's own number, by what they are taken as. -/
theorem exec_own {s : State} (h : s.receives = true) {c : Instr} {stamp : Time}
    (hc : (∃ n k ws we l p, c = .claim s.number stamp n k ws we l p)
        ∨ (∃ u p, c = .join s.number stamp u p) ∨ (∃ d m y p, c = .beacon s.number stamp d m y p)
        ∨ (∃ n x p, c = .release s.number stamp n x p) ∨ (∃ d p, c = .syncDone s.number stamp d p)
        ∨ (c = .syncRequest s.number ∧ stamp = s.now)
        ∨ (∃ f es, c = .announce s.number f es ∧ stamp = s.now)) :
    exec c s = .next ((frameEndedState s).ownNumberFrame stamp) := by
  rcases hc with ⟨_, _, _, _, _, _, rfl⟩ | ⟨_, _, rfl⟩ | ⟨_, _, _, _, rfl⟩ | ⟨_, _, _, rfl⟩ | ⟨_, _, rfl⟩ |
    ⟨rfl, rfl⟩ | ⟨_, _, rfl, rfl⟩
  all_goals exact congrArg _ (takeFrame_own h _ _)

/-- Settles O49. -/
theorem ownNumberFrameIsAClash : Obligations.OwnNumberFrameIsAClash := by
  intro s hr hon hrx c stamp hc
  refine ⟨fun hst => ?_, fun hst => ?_⟩
  · have hreads : s.station = .listen ∨ s.station = .joining ∨ s.station = .active := hst.imp_right .inl
    have hother : s.station ≠ .active := by rcases hst with h | h <;> simp [h]
    have hhalt : exec c s = .next ((frameEndedState s).halt .idClash stamp) :=
      (exec_own (receives_reading hr hreads hon hrx) hc).trans (congrArg _ (if_neg hother))
    exact ⟨_, hhalt, halt_eq (frameEndedState s) .idClash stamp⟩
  · have hclash : exec c s = .next ((frameEndedState s).writeFault .clashSeen stamp) :=
      (exec_own (receives_reading hr (.inr (.inr hst)) hon hrx) hc).trans (congrArg _ (if_pos hst))
    rw [hclash, State.writeFault, writeFault_eq]
    rfl

/-! ### A peer's frame that changes the table (R21 to R24) -/

/-- What follows the table of a frame from a peer (R144, R153, R157). -/
theorem frameFrom_eq (s : State) (n : Station) (table : List Entry) (error : Bool) :
    ((if error then State.errorTaken { frameEndedState s with table := table }
      else { frameEndedState s with table := table }).desyncIf (s.peers.stranger n)).heard n
      = FrameFrom s n table error := by
  cases error with
  | false =>
    rw [desyncIf_eq]
    rfl
  | true =>
    rw [desyncIf_eq, if_pos rfl, errorTaken_eq]
    rfl

section
variable {s : State} {n : Station} {stamp : Time} {number : Byte} {pulse : Bool} (htaking : TakingFrames s)
  (hn : n ≠ s.number) (hadopt : AdoptionClosed s)

include htaking hn hadopt

theorem exec_peerClaim {kind level : Byte} {ws we : Time} {v : Verdict} {table : List Entry}
    (ha : admission (purge s.table stamp) s.config.bTotal n stamp number kind ws we level = (v, table)) :
    exec (.claim n stamp number kind ws we level pulse) s
      = .next (FrameFrom s n table (decide (v = .protocolError))) := by
  let u := frameEndedState s
  have hclosed : u.adopt stamp pulse = u := adopt_closed (s := u) hadopt stamp pulse
  have hframes : u.takesFrames = true := htaking.receives.2
  have hpeer : u.peerClaim n stamp number kind ws we level pulse
      = ((if v = .protocolError then State.errorTaken { u with table := table } else { u with table := table }).desyncIf
        (s.peers.stranger n)).heard n := by
    have hadmission : admission (purge u.table stamp) u.config.bTotal n stamp number kind ws we level = (v, table) := ha
    unfold State.peerClaim
    simp only [hclosed, if_pos hframes, hadmission]
    rfl
  refine congrArg _ ((takeFrame_peer htaking.receives.1 hn _ _).trans (hpeer.trans ?_))
  rw [← frameFrom_eq]
  by_cases hv : v = .protocolError
  · rw [if_pos hv, decide_eq_true hv, if_pos rfl]
  · rw [if_neg hv, decide_eq_false hv, if_neg (by decide)]

theorem exec_peerRelease {x : Time} : exec (.release n stamp number x pulse) s = .next (FrameFrom s n
    (if releaseError stamp number x then Purged s.table stamp
      else Released (Purged s.table stamp) n number.toNat x) (releaseError stamp number x)) := by
  let u := frameEndedState s
  have hclosed : u.adopt stamp pulse = u := adopt_closed (s := u) hadopt stamp pulse
  have hframes : u.takesFrames = true := htaking.receives.2
  have hpeer : u.peerRelease n stamp number x pulse = ((if releaseError stamp number x
        then State.errorTaken { u with table := purge s.table stamp }
        else { u with table := applyRelease (purge s.table stamp) n number.toNat x }).desyncIf
      (s.peers.stranger n)).heard n := by
    unfold State.peerRelease
    simp only [hclosed, if_pos hframes]
    rfl
  refine congrArg _ ((takeFrame_peer htaking.receives.1 hn _ _).trans (hpeer.trans ?_))
  rw [← frameFrom_eq, purge_eq, applyRelease_eq]
  cases releaseError stamp number x <;> rfl

end

/-- Settles O50. -/
theorem peerClaimAndReleaseChangeTheTable : Obligations.PeerClaimAndReleaseChangeTheTable := by
  intro s n stamp number pulse htaking hn hadopt htable
  refine ⟨fun kind level ws we => ⟨fun hin hkind => ⟨fun hroom => ?_, fun hroom => ?_⟩, fun hout => ?_⟩,
    fun x => ⟨fun hnumber hx => ?_, fun hbad => ?_⟩⟩
  · exact exec_peerClaim htaking hn hadopt (admission_room htable ⟨hin, hkind⟩ hroom)
  · exact exec_peerClaim htaking hn hadopt (admission_full htable ⟨hin, hkind⟩ hroom)
  · refine exec_peerClaim htaking hn hadopt (v := .protocolError) ?_
    rw [purge_eq]
    exact admission_outside _ _ _ _ _ _ _ _ _ hout
  · have hgood : releaseError stamp number x = false := by
      rw [← Bool.not_eq_true, releaseError_iff]
      omega
    rw [exec_peerRelease htaking hn hadopt, hgood]
    rfl
  · rw [exec_peerRelease htaking hn hadopt, (releaseError_iff stamp x number).2 hbad]
    rfl

end Sys2Proof.Machine
end

section
/-! PROOFS. Frames of other units: JOIN, SYNC-REQUEST, BEACON and SYNC-DONE. -/

namespace Sys2Proof.Machine

/-! ### The Peer Table (R144) -/

theorem entry_setEntry {p : PeerBlock} (h : p.table.length = 8) (n : Station) (e : PeerEntry) :
    (p.setEntry n e).entry n = e := by
  have hn : n.toNat < p.table.length := h ▸ n.isLt
  rw [PeerBlock.entry, PeerBlock.setEntry, List.getD_eq_getElem?_getD, List.getElem?_set_self hn, Option.getD_some]

theorem entry_setEntry_ne (p : PeerBlock) {n m : Station} (h : m ≠ n) (e : PeerEntry) :
    (p.setEntry n e).entry m = p.entry m := by
  have hne : n.toNat ≠ m.toNat := fun heq => h (BitVec.eq_of_toNat_eq heq.symm)
  rw [PeerBlock.entry, PeerBlock.entry, PeerBlock.setEntry, List.getD_eq_getElem?_getD, List.getElem?_set_ne hne,
    ← List.getD_eq_getElem?_getD]

theorem stranger_iff (p : PeerBlock) (n : Station) :
    p.stranger n = true ↔ (p.entry n).state = .absent ∨ (p.entry n).state = .lost := by
  rw [PeerBlock.stranger, Bool.or_eq_true, decide_eq_true_eq, decide_eq_true_eq]

theorem stranger_known {p : PeerBlock} {n : Station}
    (h : (p.entry n).state = .joining ∨ (p.entry n).state = .active) : p.stranger n = false := by
  rw [← Bool.not_eq_true, stranger_iff]
  rcases h with h | h <;> simp [h]

/-! ### Helping (R151, R158) -/

theorem help_active {s : State} (h : s.station = .active) (n : Station) : s.help n = { s with
    link := { s.link with queue := BatchRequested s.link.queue },
    peers := { s.peers with quiet := some n, quietPulses := 0 } } := by
  rw [State.help, if_pos h, requestBatch_eq]

theorem help_joining {s : State} (h : s.station = .joining) (n : Station) : s.help n = s :=
  if_neg (by rw [h]; decide)

theorem dropAwaited_none {s : State} (h : s.peers.requester = false) (n : Station) : s.dropAwaited n = s :=
  if_neg (by simp [h])

/-- The completion test touches the transmit queue alone. -/
theorem completeIfCollected_link (s : State) : ∃ l, s.completeIfCollected = { s with link := l } := by
  unfold State.completeIfCollected
  split
  · exact ⟨_, rfl⟩
  · exact ⟨s.link, rfl⟩

theorem dropAwaited_requester {s : State} (h : s.peers.requester = true) (n : Station) : ∃ l, s.dropAwaited n
    = { s with link := l, peers := { s.peers with awaited := s.peers.awaited.filter (fun m => decide (m ≠ n)) } } := by
  have hfilter : s.peers.awaited.filter (fun m => m != n) = s.peers.awaited.filter (fun m => decide (m ≠ n)) :=
    List.filter_congr fun m _ => by by_cases hm : m = n <;> simp [hm]
  unfold State.dropAwaited
  by_cases hin : s.peers.awaited.contains n = true
  · rw [if_pos (by simp only [h, hin]; rfl), hfilter]
    exact completeIfCollected_link _
  · have hkept : s.peers.awaited.filter (fun m => decide (m ≠ n)) = s.peers.awaited := by
      refine List.filter_eq_self.2 fun m hm => decide_eq_true fun hmn => hin ?_
      rw [List.contains_iff_mem]
      exact hmn ▸ hm
    rw [if_neg fun hcond => hin ((Bool.and_eq_true _ _).mp hcond).2, hkept]
    exact ⟨s.link, rfl⟩

theorem help_peers (s : State) (n : Station) : ∃ l quiet pulses, s.help n
    = { s with link := l, peers := { s.peers with quiet := quiet, quietPulses := pulses } } := by
  unfold State.help
  split
  · exact ⟨_, _, _, rfl⟩
  · exact ⟨s.link, s.peers.quiet, s.peers.quietPulses, rfl⟩

/-- The Peer Table entry that a JOIN makes (R144). -/
def joinedEntry (unit : BitVec 32) : PeerEntry :=
  { state := .joining, lastHeard := 0, unit := some unit, digest := none, announced := false }

/-- The station with a peer's claims removed, as its JOIN leaves the table (R20, R26). -/
def claimsRemoved (s : State) (n : Station) (stamp : Time) : State :=
  { s with
    table := (Purged s.table stamp).filter (fun e => decide (e.station ≠ n)), link := FrameEnded s.link }

/-- The station once it has heard a peer's frame that has ended (R144). -/
def heardState (s : State) (n : Station) : State :=
  { s with link := FrameEnded s.link, peers := WithEntry s.peers n (Heard (s.peers.entry n)) }

section
variable {s : State} {n : Station} (htaking : TakingFrames s) (hn : n ≠ s.number)

include htaking hn

theorem exec_peerJoin (hadopt : AdoptionClosed s) (stamp : Time) (unit : BitVec 32) (pulse : Bool) :
    exec (.join n stamp unit pulse) s
      = .next ((((claimsRemoved s n stamp).dropAwaited n).heardJoin n unit).help n) := by
  have hframes : (frameEndedState s).takesFrames = true := htaking.receives.2
  have hclosed : (claimsRemoved s n stamp).adopt stamp pulse = claimsRemoved s n stamp :=
    adopt_closed (s := claimsRemoved s n stamp) hadopt stamp pulse
  have hremoved : ({ frameEndedState s with table := removeStation (purge s.table stamp) n } : State)
      = claimsRemoved s n stamp := by
    rw [purge_eq]
    rfl
  refine congrArg _ ((takeFrame_peer htaking.receives.1 hn _ _).trans ?_)
  rw [← hclosed, ← hremoved, State.peerJoin, if_pos hframes]
  rfl

theorem exec_peerSyncRequest (hknown : (s.peers.entry n).state = .joining ∨ (s.peers.entry n).state = .active) :
    exec (.syncRequest n) s = .next ((heardState s n).help n) := by
  have hnot : (frameEndedState s).peers.stranger n = false := stranger_known (p := s.peers) hknown
  refine congrArg _ ((takeFrame_peer htaking.receives.1 hn _ _).trans ?_)
  rw [State.peerSyncRequest, hnot, desyncIf_eq, Desynced, if_neg fun h => Bool.false_ne_true h.1]
  rfl

end

/-- Settles O51. -/
theorem helpersAnnounceAndKeepQuiet : Obligations.HelpersAnnounceAndKeepQuiet := by
  intro s n htaking hn hadopt hlength
  refine ⟨fun stamp unit pulse joined hjoined => ?_, fun hknown => ⟨fun hst => ?_, fun hst => ?_⟩⟩
  · subst hjoined
    have hjoin := exec_peerJoin htaking hn hadopt stamp unit pulse
    refine ⟨fun hreq hst => ?_, fun hreq hst => ?_, fun hreq => ?_⟩
    · rw [hjoin, dropAwaited_none (s := claimsRemoved s n stamp) hreq]
      exact congrArg _ (help_active (s := (claimsRemoved s n stamp).heardJoin n unit) hst n)
    · rw [hjoin, dropAwaited_none (s := claimsRemoved s n stamp) hreq]
      exact congrArg _ (help_joining (s := (claimsRemoved s n stamp).heardJoin n unit) hst n)
    · obtain ⟨l, hdropped⟩ := dropAwaited_requester (s := claimsRemoved s n stamp) hreq n
      obtain ⟨l', quiet, pulses, hhelped⟩ := help_peers (((claimsRemoved s n stamp).dropAwaited n).heardJoin n unit) n
      refine ⟨_, hjoin, ?_, ?_, ?_⟩
      · rw [hhelped, hdropped]
        rfl
      · rw [hhelped, hdropped]
        exact entry_setEntry (p := s.peers) hlength n (joinedEntry unit)
      · rw [hhelped, hdropped]
        rfl
  · exact (exec_peerSyncRequest htaking hn hknown).trans (congrArg _ (help_active (s := heardState s n) hst n))
  · exact (exec_peerSyncRequest htaking hn hknown).trans (congrArg _ (help_joining (s := heardState s n) hst n))

/-! ### Tables compared (R153) -/

theorem desynced_entry (s : State) (trigger : Bool) (n : Station) : (Desynced s trigger).peers.entry n = s.peers.entry n := by
  unfold Desynced
  split <;> rfl

theorem desynced_quiet (s : State) (trigger : Bool) : (Desynced s trigger).peers.quiet = s.peers.quiet := by
  unfold Desynced
  split <;> rfl

/-- The station whose table is purged at the stamp of a frame that has ended. -/
def purgedState (s : State) (stamp : Time) : State :=
  { s with link := FrameEnded s.link, table := Purged s.table stamp }

theorem heardDigest_desynced (s : State) (trigger : Bool) (n : Station) (d : BitVec 16) :
    (s.desyncIf trigger).heardDigest n d = { Desynced s trigger with
      peers := WithEntry (Desynced s trigger).peers n { Heard (s.peers.entry n) with digest := some d } } := by
  rw [desyncIf_eq, ← desynced_entry s trigger n]
  rfl

theorem beaconDisagrees_iff (table : List Entry) (n : Station) (d : BitVec 16) (claims sync : Byte) :
    beaconDisagrees table n d claims sync = true ↔ sync = 1 ∧ (d ≠ digest table
      ∨ claims.toNat ≠ (table.filter (fun e => decide (e.station = n))).length) := by
  rw [beaconDisagrees, Bool.and_eq_true, Bool.or_eq_true, decide_eq_true_eq, decide_eq_true_eq, decide_eq_true_eq]

section
variable {s : State} {n : Station} (stamp : Time) (d : BitVec 16) (pulse : Bool) (htaking : TakingFrames s)
  (hadopt : AdoptionClosed s)
  (hn : n ≠ s.number)

include htaking hadopt

/-- A frame that purges, with nothing adopted, acts on the purged table. -/
theorem purged_adopted : ((frameEndedState s).purgeAt stamp).adopt stamp pulse = purgedState s stamp := by
  have hpurge : (frameEndedState s).purgeAt stamp = purgedState s stamp := by
    refine (if_pos htaking.receives.2).trans ?_
    rw [purge_eq]
    rfl
  rw [hpurge]
  exact adopt_closed (s := purgedState s stamp) hadopt stamp pulse

include hn

theorem exec_peerBeacon (claims sync : Byte) : exec (.beacon n stamp d claims sync pulse) s
    = .next (((purgedState s stamp).desyncIf
        (beaconDisagrees (Purged s.table stamp) n d claims sync || s.peers.stranger n)).heardDigest n d) := by
  refine congrArg _ ((takeFrame_peer htaking.receives.1 hn _ _).trans ?_)
  rw [State.peerBeacon, purged_adopted stamp pulse htaking hadopt]
  rfl

theorem exec_peerSyncDone {u : State}
    (hu : u = Desynced (purgedState s stamp) (decide (d ≠ digest (Purged s.table stamp)) || s.peers.stranger n)) :
    exec (.syncDone n stamp d pulse) s = .next { u with
      peers := { WithEntry u.peers n { Heard (s.peers.entry n) with digest := some d } with
        quiet := if s.peers.quiet = some n then none else s.peers.quiet } } := by
  refine congrArg _ ((takeFrame_peer htaking.receives.1 hn _ _).trans ?_)
  have hheard := heardDigest_desynced (purgedState s stamp)
    (decide (d ≠ digest (Purged s.table stamp)) || s.peers.stranger n) n d
  have hquiet : u.peers.quiet = s.peers.quiet := by
    rw [hu]
    exact desynced_quiet _ _
  rw [← hu] at hheard
  let w : State := { u with peers := WithEntry u.peers n { Heard (s.peers.entry n) with digest := some d } }
  have hw : State.peerSyncDone (frameEndedState s) n stamp d pulse
      = if w.peers.quiet = some n then { w with peers := { w.peers with quiet := none } } else w := by
    rw [State.peerSyncDone, purged_adopted stamp pulse htaking hadopt]
    exact congrArg (fun v : State =>
      if v.peers.quiet = some n then { v with peers := { v.peers with quiet := none } } else v) hheard
  rw [hw]
  have hwquiet : w.peers.quiet = s.peers.quiet := hquiet
  rw [hwquiet]
  by_cases hhelped : s.peers.quiet = some n
  · rw [if_pos hhelped, if_pos hhelped]
  · rw [if_neg hhelped, if_neg hhelped, ← hquiet]
    rfl

end

/-! ### LISTEN: the stamp sets the revolution (R147) -/

theorem stampRevolution_toNat (t : Time) : (stampRevolution t).toNat = t.toNat / 4096 := by
  have hlt := t.isLt
  rw [stampRevolution, BitVec.extractLsb'_toNat, Nat.shiftRight_eq_div_pow]
  omega

theorem exec_listenBeacon {s : State} {n : Station} (hn : n ≠ s.number) (stamp : Time) (d : BitVec 16) (claims sync : Byte)
    (pulse : Bool) (hr : s.pins.rstn = true) (hst : s.station = .listen) (hon : s.link.onLine = none)
    (hrx : s.link.receiver = .idle ∨ s.link.receiver = .receiving) (hsync : s.peers.sync = .none)
    (hpulses : 1 ≤ s.peers.listenPulses) (hadopted : s.peers.adopted = false) :
    exec (.beacon n stamp d claims sync pulse) s = .next { s with
      link := FrameEnded s.link,
      clock := { s.clock with revolution := stampRevolution stamp + (if pulse then 1 else 0) },
      peers := { WithEntry s.peers n { Heard (s.peers.entry n) with digest := some d } with adopted := true } } := by
  let u := frameEndedState s
  have hpurge : u.purgeAt stamp = u := if_neg (by simp [u, frameEndedState, State.takesFrames, hst])
  have hadopt : u.adopt stamp pulse = { u with
      clock := { s.clock with revolution := stampRevolution stamp + (if pulse then 1 else 0) },
      peers := { s.peers with adopted := true } } :=
    if_pos (by simp [u, frameEndedState, hst, hpulses, hadopted])
  let v : State := { u with
    clock := { s.clock with revolution := stampRevolution stamp + (if pulse then 1 else 0) },
    peers := { s.peers with adopted := true } }
  have hcalm : ∀ trigger, v.desyncIf trigger = v := fun trigger => if_neg (by simp [v, hsync])
  refine congrArg _ ((takeFrame_peer (receives_reading hr (.inl hst) hon hrx) hn _ _).trans ?_)
  have hbeacon : u.peerBeacon n stamp d claims sync pulse
      = (v.desyncIf (beaconDisagrees v.table n d claims sync || v.peers.stranger n)).heardDigest n d := by
    unfold State.peerBeacon
    rw [hpurge, hadopt]
  rw [hcalm] at hbeacon
  exact hbeacon

/-- Settles O52. -/
theorem beaconAndSyncDoneCompareTables : Obligations.BeaconAndSyncDoneCompareTables := by
  intro s n stamp d pulse stranger hn hstranger
  have hsame : s.peers.stranger n = stranger := by
    rw [Bool.eq_iff_iff, stranger_iff, hstranger]
  refine ⟨fun htaking hadopt => ⟨fun claims sync disagrees hdisagrees => ⟨_, rfl, ?_⟩, _, rfl, ?_⟩,
    fun claims sync hr hst hon hrx hsync hpulses hadopted => ?_⟩
  · have hbeacon : beaconDisagrees (Purged s.table stamp) n d claims sync = disagrees := by
      rw [Bool.eq_iff_iff, beaconDisagrees_iff, hdisagrees]
    rw [exec_peerBeacon stamp d pulse htaking hadopt hn, hbeacon, hsame, heardDigest_desynced]
    rfl
  · rw [← hsame]
    exact exec_peerSyncDone stamp d pulse htaking hadopt hn rfl
  · refine ⟨_, exec_listenBeacon hn stamp d claims sync pulse hr hst hon hrx hsync hpulses hadopted, rfl, ?_⟩
    have hcount := stampRevolution_toNat stamp
    rw [BitVec.toNat_add, hcount]
    cases pulse <;> rfl

end Sys2Proof.Machine
end

section
/-! PROOFS. Frames of other units: ANNOUNCE. -/

namespace Sys2Proof.Machine

/-! ### The tests of R34 -/

theorem kindOfByte_isSome (k : Byte) : (kindOfByte k).isSome = true ↔ k = 0 ∨ k = 1 := by
  unfold kindOfByte
  split
  · next h => simp [h]
  · split
    · next h => simp [h]
    · next h0 h1 => exact iff_of_false (by simp) fun h => h.elim h0 h1

theorem spanAllowed_iff (ws we : Time) : spanAllowed ws we = true ↔ 1 ≤ timeDiff we ws ∧ timeDiff we ws ≤ 3584 := by
  rw [spanAllowed, Bool.and_eq_true, decide_eq_true_eq, decide_eq_true_eq]
  rfl

/-- An entry is inserted exactly where it passes the tests of R34. -/
theorem announceAllowed_iff {table : List Entry} (hspans : SpansKept table) (bTotal : Nat) (n : Station)
    (a : AnnounceEntry) : announceAllowed table bTotal n a = true ↔ Insertable table bTotal n a := by
  have hfits : ∀ h : 1 ≤ timeDiff a.windowEnd a.windowStart ∧ timeDiff a.windowEnd a.windowStart ≤ 3584,
      fitsBudget table bTotal a.windowStart a.windowEnd a.level.toNat = true ↔
        ∀ t, windowContains a.windowStart a.windowEnd t = true → loadAt table t + a.level.toNat ≤ bTotal :=
    fun h => fitsBudget_iff hspans h.1 h.2 bTotal _
  rw [announceAllowed, Insertable, ← findEntry_none]
  simp only [Bool.and_eq_true, Option.isNone_iff_eq_none, decide_eq_true_eq, kindOfByte_isSome, spanAllowed_iff]
  constructor
  · rintro ⟨⟨⟨⟨⟨⟨hname, hnumber⟩, hkind⟩, hlevel⟩, hspan⟩, hroom⟩, hbudget⟩
    exact ⟨hname, hnumber, hkind, hlevel, hspan.1, hspan.2, hroom, (hfits hspan).1 hbudget⟩
  · rintro ⟨hname, hnumber, hkind, hlevel, hspan, hspan', hroom, hbudget⟩
    exact ⟨⟨⟨⟨⟨⟨hname, hnumber⟩, hkind⟩, hlevel⟩, hspan, hspan'⟩, hroom⟩, (hfits ⟨hspan, hspan'⟩).2 hbudget⟩

theorem announcedEntry_eq (n : Station) {a : AnnounceEntry} (h : a.kind = 0 ∨ a.kind = 1) :
    announcedEntry n a = EntryOf n a := by
  have hkind : (kindOfByte a.kind).getD .write = if a.kind = 0 then .write else .cal := by
    rcases h with h | h <;> rw [h] <;> rfl
  rw [announcedEntry, hkind, EntryOf]

theorem spansKept_inserted {table : List Entry} (hspans : SpansKept table) {bTotal : Nat} {n : Station}
    {a : AnnounceEntry} (h : Insertable table bTotal n a) : SpansKept (table ++ [EntryOf n a]) := by
  obtain ⟨-, -, -, -, hspan, hspan', -, -⟩ := h
  intro e he
  rcases List.mem_append.1 he with he | he
  · exact hspans e he
  · rw [List.mem_singleton.1 he]
    exact ⟨hspan, hspan'⟩

/-- An insertable first entry joins the table, and the insertion goes on behind it. -/
theorem insertAnnounced_cons {table : List Entry} (hspans : SpansKept table) {bTotal : Nat} {n : Station}
    {a : AnnounceEntry} (h : Insertable table bTotal n a) (rest : List AnnounceEntry) :
    insertAnnounced bTotal n table (a :: rest) = insertAnnounced bTotal n (table ++ [EntryOf n a]) rest := by
  obtain ⟨-, -, hkind, -⟩ := id h
  rw [insertAnnounced, if_pos ((announceAllowed_iff hspans bTotal n a).2 h), announcedEntry_eq n hkind]

/-- Entries that pass one by one all join the table, and the insertion goes on behind them. -/
theorem insertAnnounced_append (bTotal : Nat) (n : Station) (pre rest : List AnnounceEntry) : ∀ {table : List Entry},
    SpansKept table → (∀ pre1 b post1, pre = pre1 ++ b :: post1 →
      Insertable (table ++ pre1.map (EntryOf n)) bTotal n b) →
    insertAnnounced bTotal n table (pre ++ rest) = insertAnnounced bTotal n (table ++ pre.map (EntryOf n)) rest
      ∧ SpansKept (table ++ pre.map (EntryOf n)) := by
  induction pre with
  | nil =>
    intro table hspans _
    rw [List.map_nil, List.append_nil]
    exact ⟨rfl, hspans⟩
  | cons a pre ih =>
    intro table hspans hpass
    have ha : Insertable table bTotal n a := by
      have hfirst := hpass [] a pre rfl
      rwa [List.map_nil, List.append_nil] at hfirst
    have hrest := ih (spansKept_inserted hspans ha) fun pre1 b post1 hsplit => by
      have hlater := hpass (a :: pre1) b post1 (congrArg (a :: ·) hsplit)
      rwa [List.map_cons, ← List.singleton_append, ← List.append_assoc] at hlater
    rw [List.append_assoc, List.singleton_append, ← List.map_cons] at hrest
    rw [List.cons_append, insertAnnounced_cons hspans ha]
    exact hrest

/-- A table that has taken a peer's entries keeps the own ones it had (R157). -/
theorem keepStation_inserted {table : List Entry} {own n : Station} (hn : n ≠ own) (pre : List AnnounceEntry) :
    (table ++ pre.map (EntryOf n)).filter (fun e => decide (e.station = own))
      = table.filter (fun e => decide (e.station = own)) := by
  have hnone : (pre.map (EntryOf n)).filter (fun e => decide (e.station = own)) = [] := by
    refine List.filter_eq_nil_iff.2 fun e he => ?_
    obtain ⟨a, -, rfl⟩ := List.mem_map.1 he
    exact fun h => hn (of_decide_eq_true h)
  rw [List.filter_append, hnone, List.append_nil]

theorem spansKept_of_sound {table : List Entry} (h : ∀ e ∈ table, EntrySound e) : SpansKept table := fun e he => by
  obtain ⟨-, -, -, hspan, hspan'⟩ := h e he
  exact ⟨hspan, hspan'⟩

/-! ### The announced entries compared (R33) -/

theorem findEntry_eq (table : List Entry) (n : Station) (number : Nat) : findEntry table n number
    = table.find? (fun e => decide (e.station = n ∧ e.number = number)) := by
  unfold findEntry
  congr 1
  funext e
  rw [Bool.decide_and]
  rfl

theorem kindOfByte_iff (k : Byte) (kind : PlanKind) :
    kindOfByte k = some kind ↔ kind = .write ∧ k = 0 ∨ kind = .cal ∧ k = 1 := by
  unfold kindOfByte
  split
  · next h => cases kind <;> simp [h]
  · next h0 =>
    split
    · next h => cases kind <;> simp [h]
    · next h1 => exact iff_of_false (by simp) fun h => h.elim (fun hw => h0 hw.2) fun hc => h1 hc.2

theorem announceMatches_false_iff (table : List Entry) (n : Station) (a : AnnounceEntry) :
    announceMatches table n a = false ↔ ∀ e,
      table.find? (fun e => decide (e.station = n ∧ e.number = a.number.toNat)) = some e →
      ¬(e.windowStart = a.windowStart ∧ e.windowEnd = a.windowEnd ∧ e.level = a.level.toNat
        ∧ (e.kind = .write ∧ a.kind = 0 ∨ e.kind = .cal ∧ a.kind = 1)) := by
  rw [← findEntry_eq]
  unfold announceMatches
  cases findEntry table n a.number.toNat with
  | none => simp
  | some e => simp [kindOfByte_iff, and_assoc]

/-! ### The frame at its receiver -/

section
variable {s : State} {n : Station} (final : Byte) {entries : List AnnounceEntry} (htaking : TakingFrames s)
  (hn : n ≠ s.number)

include htaking hn

theorem exec_peerAnnounce : exec (.announce n final entries) s
    = .next ((frameEndedState s).peerAnnounce n final entries) :=
  congrArg _ (takeFrame_peer htaking.receives.1 hn _ _)

theorem exec_announce_refused (hreq : s.peers.requester = true) {table : List Entry}
    (hi : insertAnnounced s.config.bTotal n s.table entries = (table, false)) :
    exec (.announce n final entries) s
      = .next ((GivenUp { frameEndedState s with table := table }).heard n) := by
  refine (exec_peerAnnounce final htaking hn).trans (congrArg _ ((if_pos hreq).trans ?_))
  rw [← abandon_eq]
  have hinsert : insertAnnounced (frameEndedState s).config.bTotal n (frameEndedState s).table entries = (table, false) := hi
  simp only [hinsert]
  rfl

theorem exec_announce_inserted (hreq : s.peers.requester = true) {table : List Entry}
    (hi : insertAnnounced s.config.bTotal n s.table entries = (table, true)) :
    exec (.announce n final entries) s = .next (if final = 0
      then { heardState s n with table := table }
      else State.completeIfCollected
        (State.updatePeer { heardState s n with table := table } n (fun e => { e with announced := true }))) := by
  refine (exec_peerAnnounce final htaking hn).trans (congrArg _ ((if_pos hreq).trans ?_))
  have hinsert : insertAnnounced (frameEndedState s).config.bTotal n (frameEndedState s).table entries = (table, true) := hi
  simp only [hinsert]
  rfl

theorem exec_announce_compared (hreq : s.peers.requester = false)
    (hknown : (s.peers.entry n).state = .joining ∨ (s.peers.entry n).state = .active) :
    exec (.announce n final entries) s = .next (((frameEndedState s).desyncIf
      (!entries.all (announceMatches s.table n))).heard n) := by
  have hnot : s.peers.stranger n = false := stranger_known hknown
  have hframes : (frameEndedState s).takesFrames = true := htaking.receives.2
  refine (exec_peerAnnounce final htaking hn).trans
    (congrArg _ ((if_neg (Bool.eq_false_iff.1 hreq)).trans ?_))
  have htrigger : ((frameEndedState s).takesFrames && !entries.all (announceMatches s.table n)
      || s.peers.stranger n) = !entries.all (announceMatches s.table n) := by
    rw [hnot, hframes, Bool.true_and, Bool.or_false]
  exact congrArg (fun b => ((frameEndedState s).desyncIf b).heard n) htrigger

end

/-- A peer's final ANNOUNCE at a requester: the peer has announced, and the SYNC-DONE waits once every awaited one
has (R155). -/
theorem completeIfCollected_announced {s : State} {n : Station} (hlength : s.peers.table.length = 8)
    (hreq : s.peers.requester = true) {collected : Bool}
    (hc : collected = true ↔ ∀ m ∈ s.peers.awaited, m ≠ n → (s.peers.entry m).announced = true) :
    State.completeIfCollected (State.updatePeer (heardState s n) n (fun e => { e with announced := true }))
      = { s with
          link := { FrameEnded s.link with queue :=
            if collected = true ∧ TxEntry.syncDone ∉ s.link.queue then s.link.queue ++ [.syncDone]
            else s.link.queue },
          peers := WithEntry s.peers n { Heard (s.peers.entry n) with announced := true } } := by
  let announced : PeerEntry := { Heard (s.peers.entry n) with announced := true }
  let u : State := { s with link := FrameEnded s.link, peers := s.peers.setEntry n announced }
  have hupdated : State.updatePeer (heardState s n) n (fun e => { e with announced := true }) = u := by
    have hentry : (heardState s n).peers.entry n = Heard (s.peers.entry n) := entry_setEntry hlength n _
    have htwice : (s.peers.setEntry n (Heard (s.peers.entry n))).setEntry n announced = s.peers.setEntry n announced := by
      simp only [PeerBlock.setEntry, List.set_set]
    unfold State.updatePeer
    rw [hentry]
    exact congrArg (fun p : PeerBlock => ({ s with link := FrameEnded s.link, peers := p } : State)) htwice
  have hcollected : (u.peers.requester && u.peers.awaited.all (fun m => (u.peers.entry m).announced)) = true
      ↔ collected = true := by
    have hreq' : u.peers.requester = true := hreq
    rw [hreq', Bool.true_and, List.all_eq_true, hc]
    refine forall₂_congr fun m _ => ?_
    by_cases hm : m = n
    · subst hm
      have hself : (u.peers.entry m).announced = true := congrArg PeerEntry.announced (entry_setEntry hlength m announced)
      exact iff_of_true hself fun h => absurd rfl h
    · have hother : u.peers.entry m = s.peers.entry m := entry_setEntry_ne s.peers hm announced
      rw [hother]
      exact ⟨fun h _ => h, fun h => h hm⟩
  rw [hupdated, State.completeIfCollected]
  by_cases hall : collected = true
  · rw [if_pos (hcollected.2 hall), enqueueOnce_eq _ (.inr rfl), AddedOnce]
    by_cases hin : TxEntry.syncDone ∈ s.link.queue
    · rw [if_pos (show TxEntry.syncDone ∈ u.link.queue from hin), if_neg fun h => h.2 hin]
      rfl
    · rw [if_neg (show TxEntry.syncDone ∉ u.link.queue from hin), if_pos ⟨hall, hin⟩]
      rfl
  · rw [if_neg fun h => hall (hcollected.1 h), if_neg fun h => hall h.1]
    rfl

/-- Settles O53. -/
theorem announceIsInsertedOrCompared : Obligations.AnnounceIsInsertedOrCompared := by
  intro s n final entries htaking hn hlength
  refine ⟨fun hreq hsound hall => ?_, fun hreq hsound pre a post hsplit hpre hbad => ⟨_, rfl, ?_⟩,
    fun hreq hknown differs hdiffers => ⟨_, rfl, ?_⟩⟩
  · obtain ⟨hinserted, -⟩ := insertAnnounced_append s.config.bTotal n entries [] (spansKept_of_sound hsound) hall
    rw [List.append_nil] at hinserted
    have hannounce := exec_announce_inserted final htaking hn hreq hinserted
    refine ⟨fun hfinal => hannounce.trans (congrArg _ (if_pos hfinal)), fun hfinal collected hcollected => ?_⟩
    let u : State := { s with table := s.table ++ entries.map (EntryOf n) }
    exact hannounce.trans (congrArg _ ((if_neg hfinal).trans
      (completeIfCollected_announced (s := u) hlength hreq hcollected)))
  · have hspans := spansKept_of_sound hsound
    obtain ⟨hinserted, hspans'⟩ := insertAnnounced_append s.config.bTotal n pre (a :: post) hspans hpre
    have hrefused : insertAnnounced s.config.bTotal n s.table entries = (s.table ++ pre.map (EntryOf n), false) := by
      rw [hsplit, hinserted, insertAnnounced, if_neg fun h => hbad ((announceAllowed_iff hspans' _ _ _).1 h)]
    have hkept := keepStation_inserted (table := s.table) hn pre
    refine (exec_announce_refused final htaking hn hreq hrefused).trans (congrArg _ ?_)
    have hgiven : GivenUp { frameEndedState s with table := s.table ++ pre.map (EntryOf n) }
        = GivenUp { s with link := FrameEnded s.link } :=
      congrArg (fun table => { GivenUp { s with link := FrameEnded s.link } with table := table }) hkept
    rw [hgiven]
    rfl
  · have htrigger : (!entries.all (announceMatches s.table n)) = differs := by
      rw [Bool.eq_iff_iff, hdiffers, Bool.not_eq_true', List.all_eq_false]
      simp only [Bool.not_eq_true, announceMatches_false_iff]
    have hcompared := exec_announce_compared final htaking hn (entries := entries) hreq hknown
    rw [htrigger, desyncIf_eq] at hcompared
    have hentry := desynced_entry (frameEndedState s) differs n
    refine hcompared.trans (congrArg _ ?_)
    unfold State.heard State.updatePeer
    rw [hentry]
    rfl

end Sys2Proof.Machine
end
